-- ==== Sys2Proof/Word.lean ====
section
/-! DEFINITION. The widths of the values the block handles (spec/00_scope.md R11, R12). Every value is unsigned; bit 0 is
the least significant bit. -/

namespace Sys2Proof

/-- One frame-store cell, one fill value, one colour channel, one level of all 8 data lines (R11, R34). -/
abbrev Byte := BitVec 8

/-- One command word, delivered whole in one parallel transfer (R90). -/
abbrev CommandWord := BitVec 32

/-- A pixel coordinate field, 0..63 (R11, R92). -/
abbrev Coord := BitVec 6

/-- A colour: bit 0 red, bit 1 green, bit 2 blue (R11, R92, R141). -/
abbrev Colour := BitVec 3

/-- A bank number, 0..3 (R11, R35). -/
abbrev Bank := BitVec 2

/-- The offset field of RDCELL: 9 bits, of which 0..383 name a cell (R11, R94). -/
abbrev OffsetField := BitVec 9

/-- The 384 one-bit stages of one panel register: bit `k` is stage `k`, stage 0 is the input end (R205). -/
abbrev Stages := BitVec 384

end Sys2Proof
end

