-- ==== Sys2Proof/Syntax.lean ====
section
/-! DEFINITION. The commands (spec/30_encoding.md R91 to R96), one constructor for each row of spec/opcode_table.json. The
assembler's lines stand beside them (R101, R102). -/

namespace Sys2Proof

/-- A command with its operands, every operand an immediate field of the command word (R31, R95). -/
inductive Instr where
  /-- FILL v (R91, R120). -/
  | fill (v : Byte)
  /-- SETPX x, y, c (R92, R146). -/
  | setpx (x y : Coord) (c : Colour)
  /-- ENCC r, g, bl (R93, R140). -/
  | encc (r g bl : Byte)
  /-- RDCELL bk, off (R94, R124). -/
  | rdcell (bk : Bank) (off : OffsetField)
deriving DecidableEq, Repr

/-- One line of a listing (R101, R102), its operands as the numbers written. `tick` is the line the environment's tick is
written as; it is not assembled. -/
inductive AsmLine where
  | fill (v : Nat)
  | setpx (x y c : Nat)
  | encc (r g bl : Nat)
  | rdcell (bk off : Nat)
  | clear
  | setrgb (x y r g bl : Nat)
  | tick
deriving DecidableEq, Repr

end Sys2Proof
end

