-- ==== Sys2Proof/WellFormed.lean ====
section
/-! DEFINITION. Which terms of `Instr` are commands. The widths of the fields are in the types; the one check left is the
range of RDCELL's offset (spec/30_encoding.md R94, R97 (c)). -/

namespace Sys2Proof

/-- The operands are in the ranges the spec gives (R97): RDCELL's offset is below 384. -/
def Instr.wellFormed : Instr → Bool
  | .fill _ => true
  | .setpx _ _ _ => true
  | .encc _ _ _ => true
  | .rdcell _ off => decide (off.toNat < 384)

end Sys2Proof
end

