-- ==== Sys2Proof/Decode.lean ====
section
/-! DEFINITION. Decoding a command word (spec/30_encoding.md R90 to R98), total on 32-bit words and rejecting by name, and
the encoder, written from the formats R91 to R94. -/

namespace Sys2Proof

/-- Why a word is reserved (R97), in the order of the rule's clauses. -/
inductive Reserved where
  /-- (a) the opcode is 0x0 or 0x5..0xF. -/
  | opcode (op : BitVec 4)
  /-- (b) a bit marked "must be 0" in the format of this opcode is 1. -/
  | mustBeZero (op : BitVec 4)
  /-- (c) an RDCELL word with this offset, 384 or more. -/
  | offsetRange (off : OffsetField)
deriving DecidableEq, Repr

/-- `w[hi:lo]` of `n = hi - lo + 1` bits (R12). -/
def field (w : CommandWord) (lo n : Nat) : BitVec n := w.extractLsb' lo n

/-- FILL's format (R91). -/
def decodeFill (w : CommandWord) : Except Reserved Instr :=
  if field w 8 20 = 0 then .ok (.fill (field w 0 8)) else .error (.mustBeZero 1)

/-- SETPX's format (R92). -/
def decodeSetpx (w : CommandWord) : Except Reserved Instr :=
  if field w 22 6 = 0 ∧ field w 14 2 = 0 ∧ field w 3 5 = 0 then
    .ok (.setpx (field w 16 6) (field w 8 6) (field w 0 3))
  else .error (.mustBeZero 2)

/-- ENCC's format (R93). -/
def decodeEncc (w : CommandWord) : Except Reserved Instr :=
  if field w 24 4 = 0 then .ok (.encc (field w 16 8) (field w 8 8) (field w 0 8)) else .error (.mustBeZero 3)

/-- RDCELL's format (R94) and its offset range (R97 (c)). -/
def decodeRdcell (w : CommandWord) : Except Reserved Instr :=
  if field w 18 10 = 0 ∧ field w 9 7 = 0 then
    if (field w 0 9).toNat < 384 then .ok (.rdcell (field w 16 2) (field w 0 9)) else .error (.offsetRange (field w 0 9))
  else .error (.mustBeZero 4)

/-- The opcode map (R96, R98). -/
def decode (w : CommandWord) : Except Reserved Instr :=
  let op := field w 28 4
  if op = 1 then decodeFill w
  else if op = 2 then decodeSetpx w
  else if op = 3 then decodeEncc w
  else if op = 4 then decodeRdcell w
  else .error (.opcode op)

/-- The operand `v` with its lowest bit at bit `lo` of a word. -/
def placed {n : Nat} (v : BitVec n) (lo : Nat) : CommandWord := v.setWidth 32 <<< lo

/-- The word of a command: the opcode with every operand in its place, all other bits 0 (R91 to R94, R101). -/
def encode : Instr → CommandWord
  | .fill v => 0x10000000 ||| placed v 0
  | .setpx x y c => 0x20000000 ||| placed x 16 ||| placed y 8 ||| placed c 0
  | .encc r g bl => 0x30000000 ||| placed r 16 ||| placed g 8 ||| placed bl 0
  | .rdcell bk off => 0x40000000 ||| placed bk 16 ||| placed off 0

/-- The mask of a command's row of spec/opcode_table.json. -/
def Instr.tableMask : Instr → CommandWord
  | .fill _ => 0xFFFFFF00
  | .setpx _ _ _ => 0xFFC0C0F8
  | .encc _ _ _ => 0xFF000000
  | .rdcell _ _ => 0xFFFCFE00

/-- The match value of a command's row of spec/opcode_table.json. -/
def Instr.tableMatch : Instr → CommandWord
  | .fill _ => 0x10000000
  | .setpx _ _ _ => 0x20000000
  | .encc _ _ _ => 0x30000000
  | .rdcell _ _ => 0x40000000

/-- The command word made of the low `nbits` bits of `w`, the bits above zero. A command word is delivered whole and has no
byte order (R90), so the table's numbering of the bits is the word's own. Log 16. -/
def tableWord (nbits w : Nat) : CommandWord := BitVec.ofNat 32 (w % 2 ^ nbits)

/-- The command the decoder reads from the table's bits `w`. -/
def decodeTableWord (nbits w : Nat) : Option Instr := (decode (tableWord nbits w)).toOption

end Sys2Proof
end

