-- ==== Sys2Proof/Config.lean ====
section
/-! DEFINITION. What is fixed when the block is built (spec/00_scope.md R9, R10, R44) and the values the spec leaves open.
A constant with no body is a free value: nothing in Lean can evaluate it, so a claim proved of the model holds whatever
it is. -/

namespace Sys2Proof

namespace Config

/-! The fixed parameters of R9. The model's types and formulas write these numbers out. -/

/-- Banks in the frame store (R9). -/
def nBanks : Nat := 4
/-- Cells in a bank, 64 x 2 x 3 (R9). -/
def nCells : Nat := 384
/-- Bits in a cell (R9). -/
def cellW : Nat := 8
/-- Physical data lines (R9). -/
def nLines : Nat := 8
/-- Logical x range (R9). -/
def xDim : Nat := 64
/-- Logical y range (R9). -/
def yDim : Nat := 64
/-- Colour bits of a pixel (R9). -/
def nPlanes : Nat := 3
/-- Byte distance between colour planes (R9). -/
def planeStride : Nat := 16
/-- Entries of the line map (R9). -/
def nRowGroups : Nat := 8

end Config

/-- A well-formed `LINE_MAP` (R36, D7): 8 masks, each with exactly one bit set, no two alike. The default is there only
because a Lean constant without a body must have an inhabited type; no proof can see that it is the value. -/
structure LineMap where
  /-- `LM[k]`, the mask of row group `k`. -/
  mask : Vector Byte 8 := #v[1, 2, 4, 8, 16, 32, 64, 128]
  /-- Every entry has exactly one bit set: it is `1 << l` for a line `l`. -/
  oneHot : ∀ k : Fin 8, ∃ l : Fin 8, mask[k] = BitVec.twoPow 8 l.val := by decide
  /-- The entries are pairwise distinct. -/
  distinct : ∀ j k : Fin 8, mask[j] = mask[k] → j = k := by decide
deriving Inhabited

/-- The 14 output lines (R37, R200). -/
inductive Line where
  | data (l : Fin 8)
  | clk
  | lat
  | blank
  | a0
  | a1
  | hb
deriving DecidableEq, Repr

/-- Who moves next (R70, R170): the host port by one micro-step, the scan engine by one micro-step, or the environment by
offering a tick. -/
inductive Turn where
  | host
  | scan
  | tick
deriving DecidableEq, Repr, Inhabited

/-- Weak fairness of ticks (R170): however many choices are taken, a tick is still to come. -/
def TickFair (choice : Nat → Turn) : Prop := ∀ n, ∃ m, n ≤ m ∧ choice m = .tick

/-- A way to choose who moves next, choice after choice, under the one liveness assumption of the spec (R170, R276). The
default is there only because a Lean constant without a body must have an inhabited type; no proof can see that it is the
value. -/
structure Schedule where
  /-- Who moves at the choice of this number. -/
  choose : Nat → Turn := fun _ => .tick
  /-- Ticks keep arriving. -/
  fair : TickFair choose := by exact fun n => ⟨n, Nat.le_refl n, rfl⟩
deriving Inhabited

namespace Config

/-- `LINE_MAP` (R10, R36, U6): open; any well-formed table. Log 5. -/
opaque lineMap : LineMap

/-- `FILL_ORDER` (R10, R121, U5): open; any permutation of the 1536 cells. The cell written by FILL's step `k + 1` is
`fillOrder k`. Log 6. -/
opaque fillOrder : Equiv.Perm (Fin 1536)

/-- The contents of cell `a` at power-on (R45, R262, U3): a free value for each cell. Log 3. -/
opaque powerOnCell : Nat → Byte

/-- The panel's shift registers at power-on, one per data line (R205, U10): free. Log 4. -/
opaque powerOnShift : Vector Stages 8

/-- The panel's output latches at power-on, one per data line (R205, U10): free. Log 4. -/
opaque powerOnLatch : Vector Stages 8

/-- Who moves once the listed turns are used up (R70, U4, D14, D15): free, but for the weak fairness of ticks that R170
assumes. Logs 1, 13. -/
opaque schedule : Schedule

/-- The free choice number `n` of who moves next. Logs 1, 13. -/
def nextTurn (n : Nat) : Turn := schedule.choose n

/-- `PHYS_POLARITY` (R203, U7): `true` where logical level 1 of the line is the electrical high level. Log 11. -/
opaque physPolarity : Line → Bool

/-- `NIBBLE_MAP` (R204, U8): a bijection from the two data nibbles (0 is `data[3:0]`, 1 is `data[7:4]`) onto the two panel
pairs (0 is panels 1-2, 1 is panels 3-4). Log 11. -/
opaque nibbleMap : Equiv.Perm (Fin 2)

/-- `RECEIVER_LED_MAP` (R208, U9): the number of the LED, within row pair `a`, that stage `k` of line `l` drives. Log 11. -/
opaque receiverLedMap : Bank → Fin 8 → Fin 384 → Nat

/-- `T_SCAN` in microseconds (R10, R240, U11): open; nothing reads it (R276). Log 11. -/
opaque tScan : Nat

/-- The reference value of `T_SCAN`, 2.4 ms, in microseconds (R271, C3). -/
def tScanReference : Nat := 2400

end Config

end Sys2Proof
end

