-- ==== Sys2Proof/Machine/State.lean ====
section
/-! DEFINITION. The state of the block (spec/10_state.md R30), the panel's registers that observe its lines
(spec/43_output_shift_register.md R205), the model's refusal mark (R42) and the environment's inputs (R44); the reasons a
step can stop; the state after reset (R45). -/

namespace Sys2Proof.Machine

/-- The frame store (R34, R60): pairs of a linear address `384*b + o` (R61) and the cell's value, addresses strictly
rising. A cell not listed holds its power-on contents `Config.powerOnCell`, and no listed cell does. -/
abbrev Memory := List Host.Cell

/-- The output line vector `out` (R37), in logical polarity: `true` is level 1. -/
structure Lines where
  /-- Data lines 0..7; bit `l` drives data line `l`. -/
  data : Byte
  /-- Shift clock. -/
  clk : Bool
  /-- Latch. -/
  lat : Bool
  /-- Output blank: level 1 disables the panel. -/
  blank : Bool
  /-- Bank-address line A0. -/
  a0 : Bool
  /-- Bank-address line A1. -/
  a1 : Bool
  /-- Heartbeat. -/
  hb : Bool
deriving DecidableEq, Repr

/-- The scan state machine's state `fsm` (R40). -/
inductive Fsm where
  | idle
  | data (i : Fin 384)
  | clkLo (i : Fin 384)
  | clkHi (i : Fin 384)
  | blank
  | addr
  | latHi
  | latLo
  | unblank
  | advance
  | heart
deriving DecidableEq, Repr

/-- The progress `host` of the command port (R39): ready, or busy with a command, `k` of its micro-steps done and `written`
the addresses FILL has written so far, strictly rising (empty for other commands). The command is held decoded (log 10). -/
inductive HostPort where
  | ready
  | busy (cmd : Instr) (k : Nat) (written : List Nat)
deriving DecidableEq, Repr

/-- The panel's receiver (R205): per data line a shift register and an output latch of 384 stages. -/
structure Panel where
  /-- `SR_l`. -/
  sr : Vector Stages 8
  /-- `LT_l`. -/
  lt : Vector Stages 8
deriving DecidableEq, Repr

/-- The whole state. -/
structure State where
  /-- The frame store `FB` (R34). -/
  fb : Memory
  /-- The bank cursor (R35). -/
  bank : Bank
  /-- The output lines (R37). -/
  out : Lines
  /-- The response register `RESP` (R38). -/
  resp : Byte
  /-- The command port's progress (R39). -/
  host : HostPort
  /-- The scan engine's state (R40). -/
  fsm : Fsm
  /-- The refusal mark (R42 (d), R232). -/
  refused : Bool
  /-- The panel's registers (R42 (c), R205). -/
  panel : Panel
  /-- MODEL'S OWN: the words the host will issue, the next one first (log 2). -/
  commands : List CommandWord
  /-- MODEL'S OWN: who moves next, the next turn first (log 1). -/
  turns : List Turn
  /-- MODEL'S OWN: how many turns the free value `Config.nextTurn` has chosen (log 1). -/
  draws : Nat
deriving DecidableEq, Repr

/-- Why the machine stops with a fault. No behaviour of the block is a fault (R230, spec/93 section 2). -/
inductive Fault where
  /-- Raised by a command's meaning when the port's progress lies past the command's last micro-step, a progress the spec
  does not have. Safe: it can only stop a run, and no state that meets `State.Inv` reaches it. Log 9. -/
  | noMicroStep (k : Nat)
deriving DecidableEq, Repr

/-- Why the model gives an instruction no meaning. -/
inductive Refusal where
  /-- Raised by `exec` for an instruction not modelled yet. Safe. No arm raises it. -/
  | notModelled (mnemonic : String)
  /-- Raised by RDCELL and SETPX for an access at an offset outside 0..383, which the spec calls undefined (U1). Safe: no
  well-formed command forms such an access (R68, R123). Log 9. -/
  | noSuchCell (bk : Bank) (off : Nat)
deriving DecidableEq, Repr

/-- What one step of the block answers. -/
abbrev Result := Host.Outcome State Fault Refusal

/-- The lines after reset (R45): clock at its idle level 1, output disabled, all other lines 0. -/
def Lines.reset : Lines where
  data := 0
  clk := true
  lat := false
  blank := true
  a0 := false
  a1 := false
  hb := false

/-- The state right after reset (R45, R260, R261). The frame store lists nothing, so every cell holds its free power-on
value; the panel's registers hold theirs. The environment's inputs are empty (logs 1, 2). No step
returns to this state: reset is power-on only (R260, log 17). -/
def State.reset : State where
  fb := []
  bank := 0
  out := Lines.reset
  resp := 0
  host := .ready
  fsm := .idle
  refused := false
  panel := ⟨Config.powerOnShift, Config.powerOnLatch⟩
  commands := []
  turns := []
  draws := 0

end Sys2Proof.Machine
end

