-- ==== Sys2Proof/Machine/Ops.lean ====
section
/-! DEFINITION. The named operations over the state: the frame store's cells (spec/00_scope.md R15, spec/20_memory.md), the
line vector, the command port's progress (R39, R43), the tick's entry and return (R235, R236), the environment's
inputs. -/

namespace Sys2Proof.Machine

namespace Memory

/-- The value of the cell at address `a`: the listed one, or the power-on contents (R45, R71). -/
def read : Memory → Nat → Byte
  | [], a => Config.powerOnCell a
  | (b, w) :: rest, a => if b = a then w else read rest a

/-- `m` with the pair `(a, v)` in its place among the rising addresses. -/
def put : Memory → Nat → Byte → Memory
  | [], a, v => [(a, v)]
  | (b, w) :: rest, a, v =>
    if a < b then (a, v) :: (b, w) :: rest else if a = b then (a, v) :: rest else (b, w) :: put rest a v

/-- `m` with no pair at address `a`. -/
def erase : Memory → Nat → Memory
  | [], _ => []
  | (b, w) :: rest, a => if b = a then erase rest a else (b, w) :: erase rest a

/-- `MemWrite(a, 1, v)` (R15): one byte. Writing the power-on contents removes the pair, which keeps the form. -/
def write (m : Memory) (a : Nat) (v : Byte) : Memory :=
  if v = Config.powerOnCell a then erase m a else put m a v

/-- The pairs are in canonical form, with addresses from `lo` on. -/
def wfFrom : Nat → Memory → Bool
  | _, [] => true
  | lo, (a, v) :: rest =>
    decide (lo ≤ a) && decide (a < 1536) && decide (v ≠ Config.powerOnCell a) && wfFrom (a + 1) rest

/-- The canonical form: addresses strictly rising and below 1536 (R68), no pair equal to what its address would read as
unlisted. -/
def wf (m : Memory) : Bool := wfFrom 0 m

end Memory

/-! ### Updates of one field -/

namespace State

/-- `FB` replaced. -/
def setFb (s : State) (m : Memory) : State := { s with fb := m }
/-- `bank <- b`. -/
def setBank (s : State) (b : Bank) : State := { s with bank := b }
/-- The lines set to `o`: `emit` of R16, all at once. -/
def setOut (s : State) (o : Lines) : State := { s with out := o }
/-- `RESP <- v`. -/
def setResp (s : State) (v : Byte) : State := { s with resp := v }
/-- `host <- h`. -/
def setHost (s : State) (h : HostPort) : State := { s with host := h }
/-- `fsm <- f`. -/
def setFsm (s : State) (f : Fsm) : State := { s with fsm := f }
/-- The refusal mark set to `r`. -/
def setRefused (s : State) (r : Bool) : State := { s with refused := r }
/-- The panel's registers replaced. -/
def setPanel (s : State) (p : Panel) : State := { s with panel := p }
/-- The words still to be issued. -/
def setCommands (s : State) (ws : List CommandWord) : State := { s with commands := ws }
/-- The turns still to be taken. -/
def setTurns (s : State) (ts : List Turn) : State := { s with turns := ts }
/-- The count of free choices taken. -/
def setDraws (s : State) (n : Nat) : State := { s with draws := n }

/-! ### Cells -/

/-- The value of the cell at linear address `a` (R15, R71). A read has no side effect (R67). -/
def cell (s : State) (a : Nat) : Byte := s.fb.read a

/-- `MemWrite(a, 1, v)` (R15, R66): one indivisible byte write. -/
def writeCell (s : State) (a : Nat) (v : Byte) : State := s.setFb (s.fb.write a v)

/-- `MemRMW(a, f)` (R15, R66): one indivisible read-modify-write of one byte. -/
def rmwCell (s : State) (a : Nat) (f : Byte → Byte) : State := s.writeCell a (f (s.cell a))

end State

/-- The linear address of cell `o` of bank `b` (R15, R61). -/
def cellIndex (b : Bank) (o : Nat) : Nat := 384 * b.toNat + o

/-- The address of `cellRef(b, o)`; none where its precondition `o < 384` fails (R123, U1). -/
def cellAddr (b : Bank) (o : Nat) : Option Nat := if o < 384 then some (cellIndex b o) else none

/-! ### The command port -/

/-- How many micro-steps a command has after its acceptance (R270). -/
def microSteps : Instr → Nat
  | .fill _ => 1536
  | .setpx _ _ _ => 3
  | .encc _ _ _ => 0
  | .rdcell _ _ => 1

/-- The port's progress once the micro-step after `k` others is done: ready after the last (R43). -/
def portAfter (i : Instr) (k : Nat) (written : List Nat) : HostPort :=
  if k + 1 = microSteps i then .ready else .busy i (k + 1) written

/-- Acceptance of a command that has micro-steps: `host <- Busy(cmd, 0, {})` (R43). -/
def acceptCommand (i : Instr) (s : State) : Result := .next (s.setHost (.busy i 0 []))

/-- `W + {a}` (R120): `a` in its place among the rising addresses. -/
def insertCell (a : Nat) : List Nat → List Nat
  | [] => [a]
  | b :: rest => if a < b then a :: b :: rest else if a = b then b :: rest else b :: insertCell a rest

/-- One host micro-step of command `i`. A ready port accepts it; a port busy with it does its next micro-step; a port busy
with another command accepts none, and the word waits (R39, R43, log 7). -/
def runCommand (i : Instr) (accepted : State → Result) (micro : Nat → List Nat → State → Result) (s : State) : Result :=
  match s.host with
  | .ready => accepted s
  | .busy j k written => if j = i then micro k written s else .next s

/-- The host reads whether the port would accept a word (R42 (b)). -/
def State.portReady (s : State) : Bool := decide (s.host = .ready)

/-! ### The tick, the block's one asynchronous event (R233) -/

/-- Entry (R235, R171): the tick saves nothing and moves `fsm` from IDLE to DATA(0). It is accepted only in IDLE; elsewhere
it changes nothing (R170, R189). Log 15. -/
def acceptTick (s : State) : State :=
  match s.fsm with
  | .idle => s.setFsm (.data 0)
  | _ => s

/-- Return (R236, R183): the cycle ends, nothing is restored. -/
def endCycle (s : State) : State := s.setFsm .idle

/-! ### The environment's inputs -/

/-- Who moves next, and the state with that turn taken: the next listed turn or, with none listed, the free choice. -/
def State.takeTurn (s : State) : Turn × State :=
  match s.turns with
  | t :: rest => (t, s.setTurns rest)
  | [] => (Config.nextTurn s.draws, s.setDraws (s.draws + 1))

/-- The word the host issues next, and the state with that word taken. -/
def State.takeWord (s : State) : Option (CommandWord × State) :=
  match s.commands with
  | [] => none
  | w :: rest => some (w, s.setCommands rest)

/-- `s` with these words issued after those already waiting: how a host program is loaded (log 2). -/
def State.withCommands (s : State) (ws : List CommandWord) : State := s.setCommands (s.commands ++ ws)

/-- `s` with these turns taken after those already listed (log 1). -/
def State.withTurns (s : State) (ts : List Turn) : State := s.setTurns (s.turns ++ ts)

/-- `s` placed so that its next step is a host turn that accepts the word `w` (log 2). -/
def State.withNextWord (s : State) (w : CommandWord) : State :=
  ((s.setHost .ready).setCommands (w :: s.commands)).setTurns (.host :: s.turns)

end Sys2Proof.Machine
end

