-- ==== Sys2Proof/Machine/Flags.lean ====
section
/-! DEFINITION. The block has no flags and no condition codes (spec/10_state.md R33); no operation has a result flag. The one
status bit is the model's refusal mark (R42 (d), spec/60_exceptions.md R232). -/

namespace Sys2Proof.Machine

/-- A reserved word is refused (R232): the mark is set, the port is left ready, no other state changes.
Log 12. -/
def refuseWord (s : State) : State := (s.setRefused true).setHost .ready

end Sys2Proof.Machine
end

