-- ==== Sys2Proof/Machine/Operands.lean ====
section
/-! DEFINITION. The functions of the operands: addresses of a pixel's cells (spec/41_bit_plane_encoder.md R143 to R145), the
plane update (R147), the colour encoding (R141), the inverse map (R153). -/

namespace Sys2Proof.Machine

/-- `offset(x, y)`, exactly as the source gives it (R143), on natural numbers (R152). -/
def offset (x y : Nat) : Nat := (x &&& 7) + (x &&& 0xF8) * 6 + (y &&& 4) * 2

/-- `bank_of(y) = y & 3` (R144). -/
def bankOf (y : Coord) : Bank := BitVec.ofNat 2 (y.toNat &&& 3)

/-- The row-group selector `(y & 0x3F) >> 3` (R145), in 0..7. -/
def rowGroup (y : Coord) : Fin 8 := Fin.ofNat 8 ((y.toNat &&& 0x3F) >>> 3)

/-- `mask_of(y) = LM[(y & 0x3F) >> 3]` for the line map `lm` (R145). -/
def maskOf (lm : LineMap) (y : Coord) : Byte := lm.mask[rowGroup y]

/-- The offset of plane `p` of pixel `(x, y)` within its bank (R142, R146). -/
def planeOffset (x y : Coord) (p : Nat) : Nat := offset x.toNat y.toNat + 16 * p

/-- The address of plane `p`'s cell of pixel `(x, y)` (R146), through `cellRef` (R123). -/
def planeCell (x y : Coord) (p : Nat) : Option Nat := cellAddr (bankOf y) (planeOffset x y p)

/-- `plane_update(bit, m)` of one cell (R147): OR the mask in, or AND its complement. -/
def planeUpdate (bit : Bool) (m cell : Byte) : Byte := if bit then cell ||| m else cell &&& ~~~m

/-- `encodeColor(r, g, bl) = {bl[7], g[7], r[7]}` (R141). -/
def encodeColor (r g bl : Byte) : Colour := (bl.extractLsb' 7 1 ++ g.extractLsb' 7 1 ++ r.extractLsb' 7 1 : BitVec 3)

/-- The cell FILL's step `k + 1` writes: entry `k` of `FILL_ORDER` (R120); none past the last. -/
def fillCell (k : Nat) : Option Nat := if h : k < 1536 then some (Config.fillOrder ⟨k, h⟩).val else none

/-- A pixel and one of its colour planes. -/
structure PixelPlane where
  x : Nat
  y : Nat
  plane : Nat
deriving DecidableEq, Repr

/-- The inverse map (R153): the pixel and plane of bank `b`, offset `o` and row group `k`. -/
def pixelOf (b o k : Nat) : PixelPlane where
  x := 8 * (o / 48) + o % 48 % 8
  y := 8 * k + 4 * (o % 48 % 16 / 8) + b
  plane := o % 48 / 16

/-- The colour of pixel `(x, y)` read back on data line `l` from the frame store (R153). -/
def readPixel (s : State) (x y : Coord) (l : Fin 8) : Colour :=
  let bit (p : Nat) : BitVec 1 := BitVec.ofBool ((s.cell (cellIndex (bankOf y) (planeOffset x y p))).getLsbD l.val)
  (bit 2 ++ bit 1 ++ bit 0 : BitVec 3)

end Sys2Proof.Machine
end

