-- ==== Sys2Proof/Machine/FrameStore.lean ====
section
/-! DEFINITION. The frame store's commands, FILL and RDCELL (spec/40_framestore.md). A meaning is one host micro-step of its
command: the acceptance when the port is ready, the next micro-step when the port is busy with it (R17, R43). -/

namespace Sys2Proof.Machine

/-- FILL's step `k + 1` (R120): one byte write at the next cell of `FILL_ORDER`. -/
def fillStep (v : Byte) (k : Nat) (written : List Nat) (s : State) : Result :=
  match fillCell k with
  | some a => .next ((s.writeCell a v).setHost (portAfter (.fill v) k (insertCell a written)))
  | none => .fault (.noMicroStep k)

/-- FILL v (R120): overwrite every cell of every bank with `v`. -/
def execFill (v : Byte) (s : State) : Result := runCommand (.fill v) (acceptCommand (.fill v)) (fillStep v) s

/-- RDCELL's acceptance: a word whose offset is 384 or more is reserved (R97 (c), R124). Log 8. -/
def rdcellAccept (bk : Bank) (off : OffsetField) (s : State) : Result :=
  if (Instr.rdcell bk off).wellFormed then acceptCommand (.rdcell bk off) s else .next (refuseWord s)

/-- RDCELL's step 1 (R124): one byte read into RESP. -/
def rdcellStep (bk : Bank) (off : OffsetField) (k : Nat) (s : State) : Result :=
  if k = 0 then
    match cellAddr bk off.toNat with
    | some a => .next ((s.setResp (s.cell a)).setHost (portAfter (.rdcell bk off) k []))
    | none => .refused (.noSuchCell bk off.toNat)
  else .fault (.noMicroStep k)

/-- RDCELL bk, off (R124): read one cell into RESP. -/
def execRdcell (bk : Bank) (off : OffsetField) (s : State) : Result :=
  runCommand (.rdcell bk off) (rdcellAccept bk off) (fun k _ => rdcellStep bk off k) s

end Sys2Proof.Machine
end

