-- ==== Sys2Proof/Machine/PixelEncoder.lean ====
section
/-! DEFINITION. The bit-plane encoder's commands, ENCC and SETPX (spec/41_bit_plane_encoder.md). A meaning is one host
micro-step of its command (R17, R43). -/

namespace Sys2Proof.Machine

/-- ENCC's acceptance (R140): RESP becomes the encoded colour, its top five bits 0, and the port stays ready. -/
def enccAccept (r g bl : Byte) (s : State) : Result :=
  .next ((s.setResp ((encodeColor r g bl).zeroExtend 8)).setHost .ready)

/-- ENCC r, g, bl (R140): no micro-step follows the acceptance. -/
def execEncc (r g bl : Byte) (s : State) : Result :=
  runCommand (.encc r g bl) (enccAccept r g bl) (fun k _ _ => .fault (.noMicroStep k)) s

/-- SETPX's step `k + 1` (R146): the read-modify-write of plane `k`, colour bit `k`. -/
def setpxStep (x y : Coord) (c : Colour) (k : Nat) (s : State) : Result :=
  if k < 3 then
    match planeCell x y k with
    | some a =>
      .next ((s.rmwCell a (planeUpdate (c.getLsbD k) (maskOf Config.lineMap y))).setHost
        (portAfter (.setpx x y c) k []))
    | none => .refused (.noSuchCell (bankOf y) (planeOffset x y k))
  else .fault (.noMicroStep k)

/-- SETPX x, y, c (R146): write the colour of a pixel into its three colour planes. -/
def execSetpx (x y : Coord) (c : Colour) (s : State) : Result :=
  runCommand (.setpx x y c) (acceptCommand (.setpx x y c)) (fun k _ => setpxStep x y c k) s

end Sys2Proof.Machine
end

