-- ==== Sys2Proof/Machine/Dispatch.lean ====
section
/-! DEFINITION. One arm for each command: one host micro-step of it. -/

namespace Sys2Proof.Machine

def exec (i : Instr) (s : State) : Host.Outcome State Fault Refusal :=
  match i with
  | .fill v => Sys2Proof.Machine.execFill v s
  | .setpx x y c => Sys2Proof.Machine.execSetpx x y c s
  | .encc r g bl => Sys2Proof.Machine.execEncc r g bl s
  | .rdcell bk off => Sys2Proof.Machine.execRdcell bk off s

end Sys2Proof.Machine
end

