-- ==== Sys2Proof/Machine/PanelOps.lean ====
section
/-! DEFINITION. The output stage seen from the panel (spec/43_output_shift_register.md): what the lines shift and latch into
the receiver (R206, R207), what it displays (R208), and the electrical side (R203, R204). -/

namespace Sys2Proof.Machine

/-- One shift of every line's register (R206): stage `k` takes stage `k - 1`, stage 0 takes the data line. -/
def shiftIn (sr : Vector Stages 8) (data : Byte) : Vector Stages 8 :=
  Vector.ofFn fun l : Fin 8 => sr[l].shiftConcat (data.getLsbD l.val)

/-- The panel after a step that took the lines from `before` to `after`: a shift when `clk` went from 0 to 1 (R206), and the
latches loaded when `lat` is 1 after the step (R207). -/
def Panel.observe (p : Panel) (before after : Lines) : Panel :=
  let sr := if !before.clk && after.clk then shiftIn p.sr after.data else p.sr
  { sr := sr, lt := if after.lat then sr else p.lt }

/-- `s'` with the panel's reaction to the lines' change from `s` to `s'`, whichever agent moved. Log 14. -/
def observeLines (s s' : State) : State := s'.setPanel (s.panel.observe s.out s'.out)

/-- The bank address on the lines, `2*a1 + a0` (R202, R208). -/
def Lines.address (o : Lines) : Bank := (BitVec.ofBool o.a1 ++ BitVec.ofBool o.a0 : BitVec 2)

/-- The row pair displayed: none while blanked, else the one the address lines select (R208). -/
def displayedRowPair (s : State) : Option Bank := if s.out.blank then none else some s.out.address

/-- Whether the LED driven by stage `k` of line `l` in row pair `a` is lit (R208). -/
def stageLit (s : State) (a : Bank) (l : Fin 8) (k : Fin 384) : Bool :=
  decide (displayedRowPair s = some a) && s.panel.lt[l].getLsbD k.val

/-- Whether LED number `led` of row pair `a` is lit: some stage that `RECEIVER_LED_MAP` assigns to it is (R208). -/
def ledLit (s : State) (a : Bank) (led : Nat) : Bool :=
  (List.finRange 8).any fun l => (List.finRange 384).any fun k =>
    decide (Config.receiverLedMap a l k = led) && stageLit s a l k

/-- The logical level of an output line (R200). -/
def Lines.level (o : Lines) : Line → Bool
  | .data l => o.data.getLsbD l.val
  | .clk => o.clk
  | .lat => o.lat
  | .blank => o.blank
  | .a0 => o.a0
  | .a1 => o.a1
  | .hb => o.hb

/-- The electrical level of an output line (R203): high where the logical level agrees with `PHYS_POLARITY`. -/
def electricalLevel (o : Lines) (l : Line) : Bool := o.level l == Config.physPolarity l

/-- The nibble of the data lines that feeds a panel pair (R204): the one `NIBBLE_MAP` takes to it. -/
def panelPairData (o : Lines) (pair : Fin 2) : BitVec 4 := o.data.extractLsb' (4 * (Config.nibbleMap.symm pair).val) 4

end Sys2Proof.Machine
end

