-- ==== Sys2Proof/Machine/Scan.lean ====
section
/-! DEFINITION. The scan engine (spec/42_scan_timing_fsm.md): one micro-step for each phase of `fsm`. -/

namespace Sys2Proof.Machine

/-- DATA(i) (R174): read cell `i` of the current bank onto the data lines. -/
def scanData (i : Fin 384) (s : State) : State :=
  (s.setOut { s.out with data := s.cell (cellIndex s.bank i.val) }).setFsm (.clkLo i)

/-- CLKLO(i) (R175). -/
def scanClkLo (i : Fin 384) (s : State) : State := (s.setOut { s.out with clk := false }).setFsm (.clkHi i)

/-- The phase after CLKHI(i) (R176): the next cell, or BLANK after the last. -/
def afterCell (i : Fin 384) : Fsm := if h : i.val + 1 < 384 then .data ⟨i.val + 1, h⟩ else .blank

/-- CLKHI(i) (R176): the 0-to-1 edge; the panel shifts on it. -/
def scanClkHi (i : Fin 384) (s : State) : State := (s.setOut { s.out with clk := true }).setFsm (afterCell i)

/-- BLANK (R177). -/
def scanBlank (s : State) : State := (s.setOut { s.out with blank := true }).setFsm .addr

/-- ADDR (R178): both address lines in one step, from the bank before its advance. -/
def scanAddr (s : State) : State :=
  (s.setOut { s.out with a0 := s.bank.getLsbD 0, a1 := s.bank.getLsbD 1 }).setFsm .latHi

/-- LATHI (R179). -/
def scanLatHi (s : State) : State := (s.setOut { s.out with lat := true }).setFsm .latLo

/-- LATLO (R180). -/
def scanLatLo (s : State) : State := (s.setOut { s.out with lat := false }).setFsm .unblank

/-- UNBLANK (R181). -/
def scanUnblank (s : State) : State := (s.setOut { s.out with blank := false }).setFsm .advance

/-- ADVANCE (R182): the only write of `bank`, modulo 4. -/
def scanAdvance (s : State) : State := (s.setBank (s.bank + 1)).setFsm .heart

/-- HEART (R183): toggle the heartbeat; the cycle ends. -/
def scanHeart (s : State) : State := endCycle (s.setOut { s.out with hb := !s.out.hb })

/-- A scan turn: the micro-step of the current phase. In IDLE the engine has none; only a tick moves it (R170). Log 15. -/
def scanTurn (s : State) : State :=
  match s.fsm with
  | .idle => s
  | .data i => scanData i s
  | .clkLo i => scanClkLo i s
  | .clkHi i => scanClkHi i s
  | .blank => scanBlank s
  | .addr => scanAddr s
  | .latHi => scanLatHi s
  | .latLo => scanLatLo s
  | .unblank => scanUnblank s
  | .advance => scanAdvance s
  | .heart => scanHeart s

/-- The turns of one undisturbed scan cycle (R184): the tick, then 1159 scan micro-steps. -/
def cycleTurns : List Turn := .tick :: List.replicate 1159 .scan

end Sys2Proof.Machine
end

