-- ==== Sys2Proof/Machine/Agents.lean ====
section
/-! DEFINITION. One turn of each agent (spec/20_memory.md R70): the command port's, the scan engine's, the environment's
tick. -/

namespace Sys2Proof.Machine

/-- The port takes the word `w` (R43, R98): a command is executed by its meaning, a reserved word is refused (R232). -/
def presentWord (w : CommandWord) (s : State) : Result :=
  match decode w with
  | .ok i => exec i s
  | .error _ => .next (refuseWord s)

/-- A host turn: a ready port takes the next word, if the host issues one; a busy port does the next micro-step of its
command and accepts no word (R43). Log 15. -/
def hostTurn (s : State) : Result :=
  match s.host with
  | .ready =>
    match s.takeWord with
    | none => .next s
    | some (w, s') => presentWord w s'
  | .busy i _ _ => exec i s

/-- One turn of the agent `t`. -/
def agentTurn (t : Turn) (s : State) : Result :=
  match t with
  | .host => hostTurn s
  | .scan => .next (scanTurn s)
  | .tick => .next (acceptTick s)

/-- The answer of a turn taken in `s`, with the panel's reaction to the lines. -/
def withPanel (s : State) : Result → Result
  | .next s' => .next (observeLines s s')
  | .fault f => .fault f
  | .refused r => .refused r

end Sys2Proof.Machine
end

