-- ==== Sys2Proof/Machine/Step.lean ====
section
/-! DEFINITION. One step of the machine: the next turn is taken, its agent moves by one micro-step, the panel observes the
lines (spec/00_scope.md R17, spec/20_memory.md R70, spec/43_output_shift_register.md R206, R207). -/

namespace Sys2Proof.Machine

/-- One step. -/
def step (s : State) : Host.Outcome State Fault Refusal :=
  withPanel s (agentTurn s.takeTurn.1 s.takeTurn.2)

/-- `s` with the command word of the table's bits `w` placed where the next step takes it (log 2). -/
def State.withFetchWord (s : State) (nbits w : Nat) : State := s.withNextWord (tableWord nbits w)

end Sys2Proof.Machine
end

