-- ==== Sys2Proof/Machine/Assembler.lean ====
section
/-! DEFINITION. The assembler (spec/30_encoding.md R101), its pseudo-instructions (R102), and a listing loaded as the
environment's inputs (spec/95_test_vectors.md section 3). -/

namespace Sys2Proof.Machine

/-- Why a line does not assemble (R101). -/
inductive AsmError where
  /-- An operand outside its field's range. -/
  | outOfRange (n : Nat)
  /-- Text that is no line of the syntax. -/
  | badLine
deriving DecidableEq, Repr

/-- The operand `n` as a field of `w` bits: an error where it does not fit, never a wrapped value (R101). -/
def operand (w n : Nat) : Except AsmError (BitVec w) :=
  if n < 2 ^ w then .ok (BitVec.ofNat w n) else .error (.outOfRange n)

/-- SETPX assembled from its operands. -/
def assembleSetpx (x y c : Nat) : Except AsmError Instr := do
  return .setpx (← operand 6 x) (← operand 6 y) (← operand 3 c)

/-- RDCELL assembled from its operands; an offset above 383 is an error (R101). -/
def assembleRdcell (bk off : Nat) : Except AsmError Instr := do
  if off < 384 then return .rdcell (← operand 2 bk) (← operand 9 off) else .error (.outOfRange off)

/-- SETRGB (R102): SETPX with the colour `encodeColor` gives, computed by the assembler. -/
def assembleSetrgb (x y r g bl : Nat) : Except AsmError Instr := do
  return .setpx (← operand 6 x) (← operand 6 y) (encodeColor (← operand 8 r) (← operand 8 g) (← operand 8 bl))

/-- The command of a line; none for the tick, which is not assembled (R101, R102). -/
def assembleLine : AsmLine → Except AsmError (Option Instr)
  | .fill v => return some (.fill (← operand 8 v))
  | .setpx x y c => return some (← assembleSetpx x y c)
  | .encc r g bl => return some (.encc (← operand 8 r) (← operand 8 g) (← operand 8 bl))
  | .rdcell bk off => return some (← assembleRdcell bk off)
  | .clear => return some (.fill 0)
  | .setrgb x y r g bl => return some (← assembleSetrgb x y r g bl)
  | .tick => return none

/-! ### The text of a line -/

/-- The value of a digit, below 16. -/
def digitOf (ch : Char) : Option Nat :=
  let n := ch.toNat
  if 48 ≤ n ∧ n ≤ 57 then some (n - 48)
  else if 97 ≤ n ∧ n ≤ 102 then some (n - 87)
  else if 65 ≤ n ∧ n ≤ 70 then some (n - 55)
  else none

/-- The number the digits of `base` continue from `acc`. -/
def parseDigits (base : Nat) : Nat → List Char → Option Nat
  | acc, [] => some acc
  | acc, ch :: rest =>
    match digitOf ch with
    | some d => if d < base then parseDigits base (acc * base + d) rest else none
    | none => none

/-- A decimal number, or a hexadecimal one after `0x` (R101). -/
def parseNumber : List Char → Option Nat
  | [] => none
  | ['0', 'x'] => none
  | '0' :: 'x' :: digits => parseDigits 16 0 digits
  | digits => parseDigits 10 0 digits

/-- The text without the spaces at its two ends. A space inside stays, and no number, CLEAR or tick is read across it
(log 18). -/
def trimSpaces (text : List Char) : List Char :=
  ((text.dropWhile (· = ' ')).reverse.dropWhile (· = ' ')).reverse

/-- The text cut at every `sep`. -/
def splitAtChar (sep : Char) : List Char → List (List Char)
  | [] => [[]]
  | ch :: rest =>
    if ch = sep then [] :: splitAtChar sep rest
    else
      match splitAtChar sep rest with
      | [] => [[ch]]
      | part :: parts => (ch :: part) :: parts

/-- The numbers of a list of operands separated by commas (R101), spaces allowed around each but not inside one (log 18). -/
def parseOperands (text : List Char) : Option (List Nat) :=
  (splitAtChar ',' text).mapM fun operand => parseNumber (trimSpaces operand)

/-- The line of a mnemonic and its operands (R101, R102). -/
def lineOf (mnemonic : List Char) (operands : Option (List Nat)) : Except AsmError AsmLine :=
  if mnemonic = ['F', 'I', 'L', 'L'] then
    match operands with
    | some [v] => .ok (.fill v)
    | _ => .error .badLine
  else if mnemonic = ['S', 'E', 'T', 'P', 'X'] then
    match operands with
    | some [x, y, c] => .ok (.setpx x y c)
    | _ => .error .badLine
  else if mnemonic = ['E', 'N', 'C', 'C'] then
    match operands with
    | some [r, g, bl] => .ok (.encc r g bl)
    | _ => .error .badLine
  else if mnemonic = ['R', 'D', 'C', 'E', 'L', 'L'] then
    match operands with
    | some [bk, off] => .ok (.rdcell bk off)
    | _ => .error .badLine
  else if mnemonic = ['S', 'E', 'T', 'R', 'G', 'B'] then
    match operands with
    | some [x, y, r, g, bl] => .ok (.setrgb x y r g bl)
    | _ => .error .badLine
  else .error .badLine

/-- One line of text (R101): the mnemonic, a space, the operands; CLEAR and the tick have no operands. Where spaces may stand
is the model's choice (log 18). -/
def parseLine (text : List Char) : Except AsmError AsmLine :=
  let text := trimSpaces text
  if text = ['C', 'L', 'E', 'A', 'R'] then .ok .clear
  else if text = ['<', 't', 'i', 'c', 'k', '>'] then .ok .tick
  else lineOf (text.takeWhile (· ≠ ' ')) (parseOperands (text.dropWhile (· ≠ ' ')))

/-! ### Loading a listing -/

/-- The inputs one line gives the environment: the word and the host turns that run its command to completion, or the turns
of one scan cycle. -/
def lineInputs (line : AsmLine) : Except AsmError (List CommandWord × List Turn) := do
  match ← assembleLine line with
  | some i => return ([encode i], List.replicate (microSteps i + 1) .host)
  | none => return ([], cycleTurns)

/-- `s` with a listing's words and turns waiting, line after line: no host command runs during a cycle (log 2). -/
def loadListing : List AsmLine → State → Except AsmError State
  | [], s => .ok s
  | line :: rest, s => do
    let (words, turns) ← lineInputs line
    loadListing rest ((s.withCommands words).withTurns turns)

end Sys2Proof.Machine
end

