-- ==== Sys2Proof/Safety.lean ====
section
/-! DEFINITION. The terms claims are stated in: runs, the invariant of the machine, which parts of the state belong to which
agent. -/

namespace Sys2Proof.Machine

/-- `n` host micro-steps of command `i` one after the other, stopping at the first fault or refusal. -/
def execTimes : Nat → Instr → State → Result
  | 0, _, s => .next s
  | n + 1, i, s =>
    match exec i s with
    | .next s' => execTimes n i s'
    | .fault f => .fault f
    | .refused r => .refused r

/-- `n` steps of the machine. -/
abbrev run (n : Nat) (s : State) : Result := Host.Core.run Sys2Proof.core n s

/-! ### Whose state is whose (R238, R242) -/

/-- `s` and `t` agree on what the host port owns or alone writes: the frame store, RESP, the port's progress, the words still
to be issued, and the refusal mark. -/
def State.sameHostSide (s t : State) : Prop :=
  t.fb = s.fb ∧ t.resp = s.resp ∧ t.host = s.host ∧ t.refused = s.refused ∧ t.commands = s.commands

/-- `s` and `t` agree on what the scan engine owns: the bank cursor, the output lines, its phase (R238). -/
def State.sameScanSide (s t : State) : Prop := t.bank = s.bank ∧ t.out = s.out ∧ t.fsm = s.fsm

/-- `s` and `t` agree on everything but the frame store, RESP, the port's progress and the refusal mark. -/
def State.sameElsewhere (s t : State) : Prop :=
  s.sameScanSide t ∧ t.panel = s.panel ∧ t.commands = s.commands ∧ t.turns = s.turns ∧ t.draws = s.draws

/-! ### The invariant -/

/-- `written` is the set of cells of the first `k` entries of `FILL_ORDER` (R120), in its canonical form. -/
def writtenBy (k : Nat) (written : List Nat) : Prop :=
  written.Pairwise (· < ·) ∧ ∀ a, a ∈ written ↔ ∃ j, j < k ∧ fillCell j = some a

/-- The port is ready, or busy with a well-formed command that has a micro-step left (R39, R43). While it is busy with FILL v,
the cells written so far hold `v` (R120). -/
def State.HostInv (s : State) : Prop :=
  match s.host with
  | .ready => True
  | .busy (.fill v) k written => k < 1536 ∧ writtenBy k written ∧ ∀ a ∈ written, s.cell a = v
  | .busy i k written => i.wellFormed = true ∧ k < microSteps i ∧ written = []

/-- Not blanked, the address lines select the bank before the cursor, the one the last cycle showed (R186, R211). -/
def State.ShowsLastBank (s : State) : Prop := s.out.blank = false → s.out.address + 1 = s.bank

/-- The levels the lines have in each phase (R184, R188), and the latches' contents from LATHI to the cycle's end (R209). -/
def State.LinesInv (s : State) : Prop :=
  match s.fsm with
  | .idle =>
    s.out.clk = true ∧ s.out.lat = false ∧ s.ShowsLastBank ∧ (s.out.blank = false → s.panel.lt = s.panel.sr)
  | .data _ => s.out.clk = true ∧ s.out.lat = false ∧ s.ShowsLastBank
  | .clkLo _ => s.out.clk = true ∧ s.out.lat = false ∧ s.ShowsLastBank
  | .clkHi _ => s.out.clk = false ∧ s.out.lat = false ∧ s.ShowsLastBank
  | .blank => s.out.clk = true ∧ s.out.lat = false ∧ s.ShowsLastBank
  | .addr => s.out.clk = true ∧ s.out.lat = false ∧ s.out.blank = true
  | .latHi => s.out.clk = true ∧ s.out.lat = false ∧ s.out.blank = true ∧ s.out.address = s.bank
  | .latLo =>
    s.out.clk = true ∧ s.out.lat = true ∧ s.out.blank = true ∧ s.out.address = s.bank ∧ s.panel.lt = s.panel.sr
  | .unblank =>
    s.out.clk = true ∧ s.out.lat = false ∧ s.out.blank = true ∧ s.out.address = s.bank ∧ s.panel.lt = s.panel.sr
  | .advance =>
    s.out.clk = true ∧ s.out.lat = false ∧ s.out.blank = false ∧ s.out.address = s.bank ∧ s.panel.lt = s.panel.sr
  | .heart =>
    s.out.clk = true ∧ s.out.lat = false ∧ s.out.blank = false ∧ s.out.address + 1 = s.bank ∧ s.panel.lt = s.panel.sr

/-- The invariant of the machine: the frame store is in canonical form, the port's progress is one the spec has, the lines
stand as their phase says. -/
def State.Inv (s : State) : Prop := s.fb.wf = true ∧ s.HostInv ∧ s.LinesInv

end Sys2Proof.Machine
end

