-- ==== Sys2Proof/Certificates/Slice0/Obligations.lean ====
section
/-! DEFINITION. The statements for the provers, each from the rules of spec/ its docstring names. -/

open Sys2Proof Sys2Proof.Machine

/-! ### Encoding (spec/30_encoding.md) -/

/-- R91 to R95, R98: every well-formed command is read back from its word, with every operand. -/
def Obligations.DecodeOfEncodeIsTheCommand : Prop :=
  ∀ i : Instr, i.wellFormed = true → decode (encode i) = .ok i

/-- R91 to R98: a word that decodes is the word of the command it decodes to, and that command is well-formed. -/
def Obligations.EncodeOfDecodeIsTheWord : Prop :=
  ∀ (w : CommandWord) (i : Instr), decode w = .ok i → i.wellFormed = true ∧ encode i = w

/-- R97: the words the decoder rejects are the reserved words, clause by clause. -/
def Obligations.DecodeRejectsExactlyReservedWords : Prop :=
  ∀ w : CommandWord, (∃ r, decode w = .error r) ↔
    (w.toNat / 2 ^ 28 = 0 ∨ 5 ≤ w.toNat / 2 ^ 28) ∨
    (w.toNat / 2 ^ 28 = 1 ∧ ∃ n, 8 ≤ n ∧ n ≤ 27 ∧ w.getLsbD n = true) ∨
    (w.toNat / 2 ^ 28 = 2 ∧
      ∃ n, (22 ≤ n ∧ n ≤ 27 ∨ 14 ≤ n ∧ n ≤ 15 ∨ 3 ≤ n ∧ n ≤ 7) ∧ w.getLsbD n = true) ∨
    (w.toNat / 2 ^ 28 = 3 ∧ ∃ n, 24 ≤ n ∧ n ≤ 27 ∧ w.getLsbD n = true) ∨
    (w.toNat / 2 ^ 28 = 4 ∧ ∃ n, (18 ≤ n ∧ n ≤ 27 ∨ 9 ≤ n ∧ n ≤ 15) ∧ w.getLsbD n = true) ∨
    (w.toNat / 2 ^ 28 = 4 ∧ 384 ≤ w.toNat % 512)

/-- spec/95 section 2.1: every decoded word matches its row of spec/opcode_table.json. -/
def Obligations.DecodedWordMatchesItsTableRow : Prop :=
  ∀ (w : CommandWord) (i : Instr), decode w = .ok i → w &&& i.tableMask = i.tableMatch

/-- spec/95 section 2.1, vectors E1 to E18. -/
def Obligations.DecoderReadsTheSpecsWords : Prop :=
  decode 0x1000005A = .ok (.fill 0x5A) ∧ decode 0x100000FF = .ok (.fill 0xFF) ∧
  decode 0x10000100 = .error (.mustBeZero 1) ∧
  decode 0x20000001 = .ok (.setpx 0 0 1) ∧ decode 0x203F3F07 = .ok (.setpx 63 63 7) ∧
  decode 0x20400000 = .error (.mustBeZero 2) ∧ decode 0x20004000 = .error (.mustBeZero 2) ∧
  decode 0x20000008 = .error (.mustBeZero 2) ∧
  decode 0x30FF0000 = .ok (.encc 0xFF 0 0) ∧ decode 0x31000000 = .error (.mustBeZero 3) ∧
  decode 0x4003017F = .ok (.rdcell 3 383) ∧ decode 0x40000180 = .error (.offsetRange 384) ∧
  decode 0x400001FF = .error (.offsetRange 511) ∧ decode 0x40040000 = .error (.mustBeZero 4) ∧
  decode 0x40000200 = .error (.mustBeZero 4) ∧ decode 0x00000000 = .error (.opcode 0) ∧
  decode 0x5000005A = .error (.opcode 5) ∧ decode 0xFFFFFFFF = .error (.opcode 15)

/-- R101: a line with its operands in range assembles to the word of the rule's table; out of range it is an error. -/
def Obligations.AssembledWordsAreTheSyntaxTables : Prop :=
  (∀ v, if v < 256 then
      ∃ i, assembleLine (.fill v) = .ok (some i) ∧ (encode i).toNat = 0x10000000 ||| v
    else ∃ e, assembleLine (.fill v) = .error e) ∧
  (∀ x y c, if x < 64 ∧ y < 64 ∧ c < 8 then
      ∃ i, assembleLine (.setpx x y c) = .ok (some i) ∧
        (encode i).toNat = 0x20000000 ||| x <<< 16 ||| y <<< 8 ||| c
    else ∃ e, assembleLine (.setpx x y c) = .error e) ∧
  (∀ r g bl, if r < 256 ∧ g < 256 ∧ bl < 256 then
      ∃ i, assembleLine (.encc r g bl) = .ok (some i) ∧
        (encode i).toNat = 0x30000000 ||| r <<< 16 ||| g <<< 8 ||| bl
    else ∃ e, assembleLine (.encc r g bl) = .error e) ∧
  (∀ bk off, if bk < 4 ∧ off < 384 then
      ∃ i, assembleLine (.rdcell bk off) = .ok (some i) ∧ (encode i).toNat = 0x40000000 ||| bk <<< 16 ||| off
    else ∃ e, assembleLine (.rdcell bk off) = .error e)

/-- R102: CLEAR is FILL 0x00; SETRGB is SETPX with the encoded colour, bit 0 red, bit 1 green, bit 2 blue. -/
def Obligations.PseudoInstructionsExpand : Prop :=
  assembleLine .clear = assembleLine (.fill 0) ∧
  ∀ x y r g bl, r < 256 → g < 256 → bl < 256 →
    assembleLine (.setrgb x y r g bl) = assembleLine (.setpx x y (r / 128 + 2 * (g / 128) + 4 * (bl / 128)))

/-! ### The step and the command port (spec/10_state.md, spec/60_exceptions.md) -/

/-- R43, R98: at a host turn with the port ready, the next word is taken and its command is executed; the panel then observes
the lines. -/
def Obligations.StepRunsTheDecodedCommand : Prop :=
  ∀ (s : State) (w : CommandWord) (rest : List CommandWord) (i : Instr),
    s.takeTurn.1 = .host → s.host = .ready → s.commands = w :: rest → decode w = .ok i →
    step s = withPanel s (exec i (s.takeTurn.2.setCommands rest))

/-- R39, R43: at a host turn with the port busy, the command in progress is executed on. -/
def Obligations.StepContinuesTheCommandInProgress : Prop :=
  ∀ (s : State) (i : Instr) (k : Nat) (written : List Nat),
    s.takeTurn.1 = .host → s.host = .busy i k written → step s = withPanel s (exec i s.takeTurn.2)

/-- The word `withFetchWord` places is the one the next step runs; where it is placed is the model's choice (log 2). -/
def Obligations.StepRunsTheFetchWord : Prop :=
  ∀ (s : State) (nbits w : Nat) (i : Instr), decodeTableWord nbits w = some i →
    step (s.withFetchWord nbits w) = withPanel s (exec i (s.setHost .ready))

/-- R43: a word is taken only by a ready port; acceptance makes the port busy; the last micro-step makes it ready; ENCC and a
refused word, with no micro-step, complete in their acceptance. -/
def Obligations.PortAcceptsOnlyWhenReady : Prop :=
  (∀ (s t : State) (i : Instr) (k : Nat) (written : List Nat),
    s.host = .busy i k written → step s = .next t → t.commands = s.commands) ∧
  (∀ (i : Instr) (s : State), s.host = .ready → i.wellFormed = true → 0 < microSteps i →
    exec i s = .next (s.setHost (.busy i 0 []))) ∧
  (∀ (i : Instr) (s : State) (k : Nat) (written : List Nat),
    s.HostInv → s.host = .busy i k written → k + 1 = microSteps i → ∃ t, exec i s = .next t ∧ t.host = .ready) ∧
  (∀ (r g bl : Byte) (s : State), s.host = .ready → ∃ t, exec (.encc r g bl) s = .next t ∧ t.host = .ready) ∧
  (∀ (s : State) (w : CommandWord) (rest : List CommandWord) (r : Reserved),
    s.takeTurn.1 = .host → s.host = .ready → s.commands = w :: rest → decode w = .error r →
    ∃ t, step s = .next t ∧ t.host = .ready ∧ t.commands = rest)

/-- R39, R43, read by the model (log 7): a word presented to a port busy with another command waits; nothing changes. -/
def Obligations.OtherCommandWaitsWhileBusy : Prop :=
  ∀ (i j : Instr) (s : State) (k : Nat) (written : List Nat),
    s.host = .busy j k written → j ≠ i → exec i s = .next s

/-- The model's own stops (log 9): a command stops exactly when the port's progress lies past its last micro-step, or when an
RDCELL whose offset no cell has is in progress. Neither is a state the spec has (R97 (c), R123, R230). -/
def Obligations.CommandStopsExactlyOnProgressTheSpecLacks : Prop :=
  ∀ (i : Instr) (s : State), (∀ t, exec i s ≠ .next t) ↔
    ∃ k written, s.host = .busy i k written ∧ (microSteps i ≤ k ∨ i.wellFormed = false)

/-- R232: a reserved word sets the refusal mark, leaves the port ready and changes no other state but that the word is taken
(the panel's latches follow the shift registers while `lat` is 1, whatever is done, R207); no later step clears the mark. -/
def Obligations.ReservedWordSetsTheStickyMark : Prop :=
  (∀ (s : State) (w : CommandWord) (rest : List CommandWord) (r : Reserved),
    s.takeTurn.1 = .host → s.host = .ready → s.commands = w :: rest → decode w = .error r →
    ∃ t, step s = .next t ∧ t.refused = true ∧ t.host = .ready ∧ t.fb = s.fb ∧ t.resp = s.resp ∧ s.sameScanSide t ∧
      t.commands = rest ∧ t.panel.sr = s.panel.sr ∧ (s.out.lat = false → t.panel = s.panel)) ∧
  (∀ s t : State, s.refused = true → step s = .next t → t.refused = true)

/-- R42 (d), R232: the mark is set only by a reserved word taken at a host turn. -/
def Obligations.MarkIsSetOnlyByAReservedWord : Prop :=
  ∀ s t : State, step s = .next t → s.refused = false → t.refused = true →
    s.takeTurn.1 = .host ∧ s.host = .ready ∧ ∃ w rest r, s.commands = w :: rest ∧ decode w = .error r

/-! ### The frame store's commands (spec/40_framestore.md) -/

/-- R120: FILL's acceptance, its 1536 single-byte writes in the order `FILL_ORDER`, its end; run to its end, it leaves `v` in
every cell and everything else as it was. -/
def Obligations.FillOverwritesEveryCell : Prop :=
  ∀ (v : Byte) (s : State),
    (s.host = .ready → exec (.fill v) s = .next (s.setHost (.busy (.fill v) 0 []))) ∧
    (∀ (k : Nat) (written : List Nat) (hk : k < 1536), s.host = .busy (.fill v) k written →
      exec (.fill v) s = .next ((s.writeCell (Config.fillOrder ⟨k, hk⟩).val v).setHost
        (if k = 1535 then .ready
          else .busy (.fill v) (k + 1) (insertCell (Config.fillOrder ⟨k, hk⟩).val written)))) ∧
    (s.host = .ready → ∃ t, execTimes 1537 (.fill v) s = .next t ∧ t.host = .ready ∧ (∀ a, a < 1536 → t.cell a = v) ∧
      t.resp = s.resp ∧ t.refused = s.refused ∧ s.sameElsewhere t)

/-- R122: once FILL v completes, and as long as the host issues no further command, every cell holds `v`, under every
interleaving with the scan. -/
def Obligations.FillHoldsUnderEveryInterleaving : Prop :=
  ∀ (s t : State) (v : Byte) (k : Nat) (written : List Nat) (n : Nat),
    s.Inv → s.host = .busy (.fill v) k written → s.commands = [] → run n s = .next t → t.host = .ready →
    ∀ a, a < 1536 → t.cell a = v

/-- R124: RDCELL's acceptance, its one read into RESP, its end. -/
def Obligations.RdcellReadsOneCell : Prop :=
  ∀ (bk : Bank) (off : OffsetField) (s : State), off.toNat < 384 →
    (s.host = .ready → exec (.rdcell bk off) s = .next (s.setHost (.busy (.rdcell bk off) 0 []))) ∧
    (∀ written, s.host = .busy (.rdcell bk off) 0 written →
      exec (.rdcell bk off) s = .next ((s.setResp (s.cell (384 * bk.toNat + off.toNat))).setHost .ready)) ∧
    (s.host = .ready →
      execTimes 2 (.rdcell bk off) s = .next (s.setResp (s.cell (384 * bk.toNat + off.toNat))))

/-- The model's reading of the term whose word is reserved (log 8): on a ready port an RDCELL with an offset of 384 or more is
refused as its word is, the mark set and nothing else changed. -/
def Obligations.RdcellOfNoCellIsRefused : Prop :=
  ∀ (bk : Bank) (off : OffsetField) (s : State), 384 ≤ off.toNat → s.host = .ready →
    decode (encode (.rdcell bk off)) = .error (.offsetRange off) ∧
    exec (.rdcell bk off) s = .next (s.setRefused true)

/-! ### The bit-plane encoder's commands (spec/41_bit_plane_encoder.md) -/

/-- R140, R141: ENCC writes RESP with one bit a channel, each channel's bit 7: red in bit 0, green in bit 1, blue in bit 2,
the other bits 0; nothing else changes. -/
def Obligations.EnccEncodesTheColour : Prop :=
  ∀ (r g bl : Byte) (s : State), s.host = .ready →
    exec (.encc r g bl) s =
      .next (s.setResp (BitVec.ofNat 8 (r.toNat / 128 + 2 * (g.toNat / 128) + 4 * (bl.toNat / 128))))

/-- R146, R147: SETPX's acceptance and its three plane updates, each one read-modify-write of one byte; nothing else changes
but the port's progress. -/
def Obligations.SetpxUpdatesItsPlanes : Prop :=
  ∀ (x y : Coord) (c : Colour) (s : State),
    (s.host = .ready → exec (.setpx x y c) s = .next (s.setHost (.busy (.setpx x y c) 0 []))) ∧
    ∀ (p : Nat) (written : List Nat) (a : Nat) (m : Byte), s.host = .busy (.setpx x y c) p written → p < 3 →
      a = 384 * (y.toNat &&& 3) + ((x.toNat &&& 7) + (x.toNat &&& 0xF8) * 6 + (y.toNat &&& 4) * 2) + 16 * p →
      Config.lineMap.mask[(y.toNat &&& 0x3F) >>> 3]? = some m →
      exec (.setpx x y c) s =
        .next ((s.writeCell a (if c.getLsbD p then s.cell a ||| m else s.cell a &&& ~~~m)).setHost
          (if p = 2 then .ready else .busy (.setpx x y c) (p + 1) []))

/-- R146, R148 (e): run to its end, SETPX has updated its three cells and nothing else. -/
def Obligations.SetpxCompletes : Prop :=
  ∀ (x y : Coord) (c : Colour) (s : State), s.host = .ready →
    ∃ t, execTimes 4 (.setpx x y c) s = .next t ∧ t.host = .ready ∧
      (∀ p, p < 3 → t.cell (cellIndex (bankOf y) (planeOffset x y p)) =
        planeUpdate (c.getLsbD p) (maskOf Config.lineMap y) (s.cell (cellIndex (bankOf y) (planeOffset x y p)))) ∧
      (∀ a, (∀ p, p < 3 → planeCell x y p ≠ some a) → t.cell a = s.cell a) ∧
      t.resp = s.resp ∧ t.refused = s.refused ∧ s.sameElsewhere t

/-- R148 (a): after SETPX the pixel reads back as the colour, whatever the cells held. -/
def Obligations.SetpxColourReadsBack : Prop :=
  ∀ (x y : Coord) (c : Colour) (s : State) (l : Fin 8), s.host = .ready →
    maskOf Config.lineMap y = BitVec.twoPow 8 l.val →
    ∃ t, execTimes 4 (.setpx x y c) s = .next t ∧ readPixel t x y l = c

/-- R148 (b), (c): a SETPX after another SETPX of the same pixel leaves the frame store the second leaves alone, the same
data (with the same colour: idempotence; with colour 0 first: the second alone). -/
def Obligations.LastSetpxOfAPixelWins : Prop :=
  ∀ (x y : Coord) (c c' : Colour) (s : State), s.host = .ready → s.fb.wf = true →
    ∃ t t₁ t₂, execTimes 4 (.setpx x y c) s = .next t ∧ execTimes 4 (.setpx x y c') s = .next t₁ ∧
      execTimes 4 (.setpx x y c) t₁ = .next t₂ ∧ t₂.fb = t.fb

/-- R148 (d), R151: SETPX leaves the colour of every other pixel as it was. -/
def Obligations.SetpxKeepsOtherPixels : Prop :=
  ∀ (x y x' y' : Coord) (c : Colour) (s : State) (l : Fin 8), s.host = .ready → (x, y) ≠ (x', y') →
    maskOf Config.lineMap y' = BitVec.twoPow 8 l.val →
    ∃ t, execTimes 4 (.setpx x y c) s = .next t ∧ readPixel t x' y' l = readPixel s x' y' l

/-! ### Frames -/

/-- R120, R146, R148 (e): what FILL and SETPX leave unchanged. FILL stores at the cell `fillCell` gives for the port's
progress, SETPX at the cell `planeCell` gives; on acceptance neither stores. While the port is busy with another command
neither stores either: that a word then waits is the model's reading of R39 and R43 (log 7). -/
def Obligations.StoringCommandsFrame : Prop :=
  (∀ (v : Byte) (s t : State), exec (.fill v) s = .next t →
    t.resp = s.resp ∧ t.refused = s.refused ∧ s.sameElsewhere t ∧
    (∀ k written a, s.host = .busy (.fill v) k written → fillCell k = some a → ∀ b, b ≠ a → t.cell b = s.cell b) ∧
    ((∀ k written, s.host ≠ .busy (.fill v) k written) → ∀ b, t.cell b = s.cell b)) ∧
  (∀ (x y : Coord) (c : Colour) (s t : State), exec (.setpx x y c) s = .next t →
    t.resp = s.resp ∧ t.refused = s.refused ∧ s.sameElsewhere t ∧
    (∀ k written a, s.host = .busy (.setpx x y c) k written → planeCell x y k = some a →
      ∀ b, b ≠ a → t.cell b = s.cell b) ∧
    ((∀ k written, s.host ≠ .busy (.setpx x y c) k written) → ∀ b, t.cell b = s.cell b))

/-- R124, R125, R140: what ENCC and RDCELL leave unchanged: every cell and everything but RESP and the port's progress (and
the refusal mark, where RDCELL's offset is 384 or more). RDCELL changes RESP only by its read. That a
word presented to a port busy with another command waits is the model's reading of R39 and R43 (log 7), and the refusal of
the RDCELL term whose offset no cell has is its reading of R97 and R232 (log 8). -/
def Obligations.NonStoringCommandsFrame : Prop :=
  (∀ (r g bl : Byte) (s t : State), exec (.encc r g bl) s = .next t →
    t.refused = s.refused ∧ t.host = s.host ∧ s.sameElsewhere t ∧ ∀ a, t.cell a = s.cell a) ∧
  (∀ (bk : Bank) (off : OffsetField) (s t : State), exec (.rdcell bk off) s = .next t →
    (off.toNat < 384 → t.refused = s.refused) ∧ s.sameElsewhere t ∧ (∀ a, t.cell a = s.cell a) ∧
    ((∀ k written, s.host ≠ .busy (.rdcell bk off) k written) → t.resp = s.resp))

/-- R38: RESP is written only by ENCC and RDCELL, and is 0x00 after reset. -/
def Obligations.OnlyEnccAndRdcellWriteResp : Prop :=
  State.reset.resp = 0 ∧
  ∀ s t : State, step s = .next t → t.resp ≠ s.resp →
    s.takeTurn.1 = .host ∧
    ((∃ w rest r g bl, s.host = .ready ∧ s.commands = w :: rest ∧ decode w = .ok (.encc r g bl)) ∨
      ∃ bk off written, s.host = .busy (.rdcell bk off) 0 written)

/-! ### Layout (spec/41_bit_plane_encoder.md section 4) -/

/-- R144, R145, R149: the bank, the row group and the offset of a pixel's planes. -/
def Obligations.BankLayout : Prop :=
  ∀ (x y : Coord) (p : Nat),
    (bankOf y).toNat = y.toNat % 4 ∧ (rowGroup y).val = y.toNat / 8 ∧
    planeOffset x y p = x.toNat % 8 + 8 * (y.toNat / 4 % 2) + 16 * p + 48 * (x.toNat / 8)

/-- R151: under a well-formed line map every pixel's plane is a bit of the frame store, and every bit of the frame store is
one plane of exactly one pixel. -/
def Obligations.PixelPlanesAndCellBitsAreInBijection : Prop :=
  ∀ lm : LineMap,
    (∀ (x y : Coord) (p : Fin 3), planeOffset x y p.val < 384 ∧ ∃ l : Fin 8, maskOf lm y = BitVec.twoPow 8 l.val) ∧
    ∀ (b : Bank) (o : Fin 384) (l : Fin 8), ∃! q : Coord × Coord × Fin 3,
      bankOf q.2.1 = b ∧ planeOffset q.1 q.2.1 q.2.2.val = o.val ∧ maskOf lm q.2.1 = BitVec.twoPow 8 l.val

/-- R153: the inverse map finds the pixel and plane of a cell's bit, and reading the pixel back gives that bit. -/
def Obligations.InverseMapFindsThePixel : Prop :=
  ∀ (b : Bank) (o : Fin 384) (k l : Fin 8) (s : State), Config.lineMap.mask[k] = BitVec.twoPow 8 l.val →
    ∃ (x y : Coord) (p : Fin 3), pixelOf b.toNat o.val k.val = ⟨x.toNat, y.toNat, p.val⟩ ∧
      bankOf y = b ∧ rowGroup y = k ∧ planeOffset x y p.val = o.val ∧
      (readPixel s x y l).getLsbD p.val = (s.cell (384 * b.toNat + o.val)).getLsbD l.val

/-! ### The scan engine (spec/42_scan_timing_fsm.md) -/

/-- R171, R235: a tick in IDLE saves nothing, touches nothing of the host and changes no line; it moves `fsm` to DATA(0). (The
panel's latches, which are not the block's, follow the shift registers while `lat` is 1, R207.) -/
def Obligations.TickStartsACycle : Prop :=
  ∀ s : State, s.takeTurn.1 = .tick → s.fsm = .idle →
    ∃ p, step s = .next { s.takeTurn.2 with fsm := .data 0, panel := p } ∧ (s.out.lat = false → p = s.panel)

/-- R170, R189, as the model renders them (log 15): a tick turn outside IDLE and a scan turn in IDLE change nothing but that the
turn is taken (and the panel's latches while `lat` is 1, R207). -/
def Obligations.TurnsWithNothingToDoChangeNothing : Prop :=
  ∀ s : State, (s.takeTurn.1 = .tick ∧ s.fsm ≠ .idle ∨ s.takeTurn.1 = .scan ∧ s.fsm = .idle) →
    ∃ p, step s = .next { s.takeTurn.2 with panel := p } ∧ (s.out.lat = false → p = s.panel)

/-- R174, R175, and the line and the phase of R176: the three phases that stream one cell. -/
def Obligations.ScanStreamsACell : Prop :=
  ∀ (s : State) (i : Fin 384), s.takeTurn.1 = .scan →
    (s.fsm = .data i → ∃ p, step s = .next { s.takeTurn.2 with
      out := { s.out with data := s.cell (384 * s.bank.toNat + i.val) }, fsm := .clkLo i, panel := p }) ∧
    (s.fsm = .clkLo i → ∃ p, step s = .next { s.takeTurn.2 with
      out := { s.out with clk := false }, fsm := .clkHi i, panel := p }) ∧
    (s.fsm = .clkHi i → ∃ p, step s = .next { s.takeTurn.2 with
      out := { s.out with clk := true }
      fsm := if h : i.val < 383 then .data ⟨i.val + 1, Nat.succ_lt_succ h⟩ else .blank
      panel := p })

/-- R177 to R181, R183, and the effect of R182: the seven phases after the last cell. -/
def Obligations.ScanHousekeeping : Prop :=
  ∀ s : State, s.takeTurn.1 = .scan →
    (s.fsm = .blank → ∃ p, step s = .next { s.takeTurn.2 with
      out := { s.out with blank := true }, fsm := .addr, panel := p }) ∧
    (s.fsm = .addr → ∃ p, step s = .next { s.takeTurn.2 with
      out := { s.out with a0 := s.bank.getLsbD 0, a1 := s.bank.getLsbD 1 }, fsm := .latHi, panel := p }) ∧
    (s.fsm = .latHi → ∃ p, step s = .next { s.takeTurn.2 with
      out := { s.out with lat := true }, fsm := .latLo, panel := p }) ∧
    (s.fsm = .latLo → ∃ p, step s = .next { s.takeTurn.2 with
      out := { s.out with lat := false }, fsm := .unblank, panel := p }) ∧
    (s.fsm = .unblank → ∃ p, step s = .next { s.takeTurn.2 with
      out := { s.out with blank := false }, fsm := .advance, panel := p }) ∧
    (s.fsm = .advance → ∃ p, step s = .next { s.takeTurn.2 with
      bank := BitVec.ofNat 2 ((s.bank.toNat + 1) % 4), fsm := .heart, panel := p }) ∧
    (s.fsm = .heart → ∃ p, step s = .next { s.takeTurn.2 with
      out := { s.out with hb := !s.out.hb }, fsm := .idle, panel := p })

/-- R182: ADVANCE moves the bank cursor on by one modulo 4 and changes no line; no other step of any agent changes it. -/
def Obligations.OnlyAdvanceWritesTheBank : Prop :=
  (∀ s : State, s.takeTurn.1 = .scan → s.fsm = .advance →
    ∃ t, step s = .next t ∧ t.bank.toNat = (s.bank.toNat + 1) % 4 ∧ t.fsm = .heart ∧ t.out = s.out) ∧
  ∀ s t : State, step s = .next t → t.bank ≠ s.bank → s.takeTurn.1 = .scan ∧ s.fsm = .advance

/-- R37: whatever moves, each output line changes only in the phases R37 names as its writer. -/
def Obligations.LinesChangeOnlyInTheirPhases : Prop :=
  ∀ s t : State, step s = .next t →
    (t.out.data ≠ s.out.data → ∃ i, s.fsm = .data i) ∧
    (t.out.clk ≠ s.out.clk → ∃ i, s.fsm = .clkLo i ∨ s.fsm = .clkHi i) ∧
    (t.out.lat ≠ s.out.lat → s.fsm = .latHi ∨ s.fsm = .latLo) ∧
    (t.out.blank ≠ s.out.blank → s.fsm = .blank ∨ s.fsm = .unblank) ∧
    (t.out.address ≠ s.out.address → s.fsm = .addr) ∧
    (t.out.hb ≠ s.out.hb → s.fsm = .heart) ∧
    (t.out ≠ s.out → s.takeTurn.1 = .scan)

/-- R188, R211: in every state that meets the invariant, no data or clock line changes while `lat` is 1 or while the address
changes; the address changes only blanked and unlatched; `lat` rises only blanked, with the address already that of the bank
streamed; the output is unblanked only unlatched. -/
def Obligations.LineChangesKeepTheOrder : Prop :=
  ∀ s t : State, s.Inv → step s = .next t →
    ((s.out.lat = true ∨ t.out.lat = true ∨ t.out.address ≠ s.out.address) →
      t.out.data = s.out.data ∧ t.out.clk = s.out.clk) ∧
    (t.out.address ≠ s.out.address →
      s.out.blank = true ∧ t.out.blank = true ∧ s.out.lat = false ∧ t.out.lat = false) ∧
    (s.out.lat = false → t.out.lat = true →
      s.out.blank = true ∧ t.out.blank = true ∧ s.out.address = s.bank ∧ t.out.address = s.bank) ∧
    (s.out.blank = true → t.out.blank = false → s.out.lat = false ∧ t.out.lat = false ∧ t.panel.lt = t.panel.sr)

/-- R184, R186, R191: one scan cycle with no host turn: 1160 steps, after which the bank has advanced by one, the address
lines hold the bank streamed, the data lines the last cell, the other lines their levels between cycles, and the host's side
is untouched. -/
def Obligations.UndisturbedCycle : Prop :=
  ∀ (s : State) (rest : List Turn), s.fsm = .idle → s.turns = cycleTurns ++ rest →
    ∃ t, run 1160 s = .next t ∧ t.fsm = .idle ∧ t.bank = s.bank + 1 ∧ t.turns = rest ∧ s.sameHostSide t ∧
      t.out.data = s.cell (384 * s.bank.toNat + 383) ∧ t.out.clk = true ∧ t.out.lat = false ∧ t.out.blank = false ∧
      t.out.a0 = s.bank.getLsbD 0 ∧ t.out.a1 = s.bank.getLsbD 1 ∧ t.out.hb = !s.out.hb

/-- R172, R186, R187: the same of a cycle with host turns anywhere inside, in every state that meets the invariant. -/
def Obligations.CycleUnderEveryInterleaving : Prop :=
  ∀ (s : State) (turns rest : List Turn), s.Inv → s.fsm = .idle → s.turns = turns ++ rest →
    turns.filter (fun u => decide (u ≠ .host)) = cycleTurns →
    ∃ t, run turns.length s = .next t ∧ t.fsm = .idle ∧ t.bank = s.bank + 1 ∧ t.out.address = s.bank ∧
      t.out.clk = true ∧ t.out.lat = false ∧ t.out.blank = false ∧ t.out.hb = !s.out.hb ∧ t.turns = rest

/-- R185, R213: `n` undisturbed cycles one after the other advance the bank by `n` modulo 4, no skips and no repeats, and
toggle the heartbeat `n` times. -/
def Obligations.BankRoundRobin : Prop :=
  ∀ (n : Nat) (s : State) (rest : List Turn), s.fsm = .idle →
    s.turns = (List.replicate n cycleTurns).flatten ++ rest →
    ∃ t, run (1160 * n) s = .next t ∧ t.fsm = .idle ∧ t.turns = rest ∧
      t.bank.toNat = (s.bank.toNat + n) % 4 ∧ t.out.hb = (s.out.hb != decide (n % 2 = 1))

/-! ### The output stage (spec/43_output_shift_register.md) -/

/-- R206, R207: at a step that takes `clk` from 0 to 1 every shift register takes its data line in at stage 0 and moves on by
one; at no other step does it change; the latches follow the shift registers at every step after which `lat` is 1, and hold
otherwise. -/
def Obligations.PanelShiftsAndLatches : Prop :=
  ∀ s t : State, step s = .next t →
    (∀ (l : Fin 8) (k : Fin 384), t.panel.sr[l].getLsbD k.val =
      if s.out.clk = false ∧ t.out.clk = true then
        if k.val = 0 then t.out.data.getLsbD l.val else s.panel.sr[l].getLsbD (k.val - 1)
      else s.panel.sr[l].getLsbD k.val) ∧
    (t.out.lat = true → t.panel.lt = t.panel.sr) ∧ (t.out.lat = false → t.panel.lt = s.panel.lt)

/-- R208: a stage is lit in row pair `a` exactly when the output is not blanked, the address lines select `a`, and the latch
holds 1. The second clause is the model's choice where the map assigns several stages to one LED, which R208 leaves open
(log 11): an LED is lit exactly when some stage that `RECEIVER_LED_MAP` assigns to it is. -/
def Obligations.DisplayShowsTheLatchOfOneRowPair : Prop :=
  (∀ (s : State) (a : Bank) (l : Fin 8) (k : Fin 384), stageLit s a l k = true ↔
    s.out.blank = false ∧ a.toNat = 2 * s.out.a1.toNat + s.out.a0.toNat ∧ s.panel.lt[l].getLsbD k.val = true) ∧
  (∀ (s : State) (a : Bank) (led : Nat), ledLit s a led = true ↔
    ∃ l k, Config.receiverLedMap a l k = led ∧ stageLit s a l k = true)

/-- R209: after an undisturbed cycle stage `383 - i` of every line holds that line's bit of cell `i` of the bank streamed, and
the latches hold the same. -/
def Obligations.PanelHoldsTheStreamedBank : Prop :=
  ∀ (s : State) (rest : List Turn), s.fsm = .idle → s.turns = cycleTurns ++ rest →
    ∃ t, run 1160 s = .next t ∧ t.panel.lt = t.panel.sr ∧
      ∀ (l : Fin 8) (i : Fin 384),
        t.panel.sr[l].getLsbD (383 - i.val) = (s.cell (384 * s.bank.toNat + i.val)).getLsbD l.val

/-- R210, R211: after an undisturbed cycle of bank `b`, colour bit `p` of a pixel of that bank is shown lit exactly when the
frame store holds it, and no stage of another row pair is lit. -/
def Obligations.CycleDisplaysThePixelsOfItsBank : Prop :=
  ∀ (s : State) (rest : List Turn), s.fsm = .idle → s.turns = cycleTurns ++ rest →
    ∃ t, run 1160 s = .next t ∧
      (∀ (x y : Coord) (p : Fin 3) (l : Fin 8) (k : Fin 384), bankOf y = s.bank →
        maskOf Config.lineMap y = BitVec.twoPow 8 l.val → k.val = 383 - planeOffset x y p.val →
        stageLit t s.bank l k = (readPixel s x y l).getLsbD p.val) ∧
      ∀ (a : Bank) (l : Fin 8) (k : Fin 384), a ≠ s.bank → stageLit t a l k = false

/-! ### Whose state is whose (spec/20_memory.md, spec/60_exceptions.md R238) -/

/-- R72: the scan engine and the tick never write the frame store, nor anything else of the host's side. -/
def Obligations.ScanNeverWritesTheHostSide : Prop :=
  ∀ s t : State, step s = .next t → s.takeTurn.1 ≠ .host → s.sameHostSide t

/-- R37, R238: no host turn, whatever the command, changes the bank cursor, a line or the scan engine's phase. -/
def Obligations.HostNeverWritesTheScanSide : Prop :=
  ∀ s t : State, step s = .next t → s.takeTurn.1 = .host → s.sameScanSide t

/-- R72, R78, spec/95 M1: the host's results do not depend on the interleaving. Two runs from states that agree on the host's
side, under any two schedules with equally many host turns, end with the same host's side. -/
def Obligations.HostResultsDoNotDependOnTheScan : Prop :=
  ∀ (s s' t t' : State) (turns turns' rest rest' : List Turn),
    s.sameHostSide s' → s.turns = turns ++ rest → s'.turns = turns' ++ rest' →
    turns.count .host = turns'.count .host →
    run turns.length s = .next t → run turns'.length s' = .next t' → t.sameHostSide t'

/-! ### Invariants and progress -/

/-- R45: every value the rule gives for reset. -/
def Obligations.ResetValues : Prop :=
  State.reset.bank = 0 ∧ State.reset.out.data = 0 ∧ State.reset.out.clk = true ∧ State.reset.out.lat = false ∧
  State.reset.out.blank = true ∧ State.reset.out.a0 = false ∧ State.reset.out.a1 = false ∧
  State.reset.out.hb = false ∧ State.reset.resp = 0 ∧ State.reset.host = .ready ∧ State.reset.fsm = .idle ∧
  State.reset.refused = false

/-- What R45 leaves unspecified is a free value of the model (logs 3, 4): every cell, every stage of the panel. No LED is lit
(R212). -/
def Obligations.ResetContentsAreFreeValues : Prop :=
  (∀ a, State.reset.cell a = Config.powerOnCell a) ∧
  State.reset.panel = ⟨Config.powerOnShift, Config.powerOnLatch⟩ ∧ ∀ a l k, stageLit State.reset a l k = false

/-- The state after reset meets the invariant. -/
def Obligations.ResetMeetsTheInvariant : Prop := State.reset.Inv

/-- R39, R120, R184, R186, R188: every step keeps the invariant. -/
def Obligations.StepKeepsTheInvariant : Prop := ∀ s t : State, s.Inv → step s = .next t → t.Inv

/-- R190, R230, spec/93 section 2: no step of a state that meets the invariant stops. -/
def Obligations.InvariantStatesNeverStop : Prop := ∀ s : State, s.Inv → ∃ t, step s = .next t

/-- R190, R230: from reset, whatever words the host issues and however the agents' turns fall, no run stops, and every state
reached meets the invariant. -/
def Obligations.RunsFromResetNeverStop : Prop :=
  ∀ (words : List CommandWord) (turns : List Turn) (n : Nat),
    ∃ t, run n ((State.reset.withCommands words).withTurns turns) = .next t ∧ t.Inv

/-- R60, R68: every step keeps the frame store in canonical form, in every state whatever. -/
def Obligations.StepKeepsTheMemoryForm : Prop :=
  ∀ s t : State, s.fb.wf = true → step s = .next t → t.fb.wf = true

/-- R170: with a tick among the turns listed, an idle scan engine starts a cycle before they are used up. -/
def Obligations.ListedTickStartsACycle : Prop :=
  ∀ s : State, s.Inv → s.fsm = .idle → .tick ∈ s.turns →
    ∃ n t, n ≤ s.turns.length ∧ run n s = .next t ∧ t.fsm = .data 0

/-- R43, R70, spec/93 section 2: a command in progress completes once the host has had the turns its remaining micro-steps
need, whatever other turns fall between; no word is taken meanwhile. -/
def Obligations.CommandInProgressCompletes : Prop :=
  ∀ (s : State) (i : Instr) (k : Nat) (written : List Nat), s.Inv → s.host = .busy i k written →
    microSteps i ≤ k + s.turns.count .host →
    ∃ n t, n ≤ s.turns.length ∧ run n s = .next t ∧ t.host = .ready ∧ t.commands = s.commands

/-- R170, the weak fairness it assumes, carried by the model's free choice of turns (log 13): whatever turns are listed, a scan
engine in IDLE eventually takes a tick and starts a cycle. -/
def Obligations.IdleScanEngineStartsACycle : Prop :=
  ∀ s : State, s.Inv → s.fsm = .idle → ∃ n t, run n s = .next t ∧ t.fsm = .data 0
end

