-- ==== Sys2Proof/Laws/Memory.lean ====
section
/-! SUPPORT. The laws of the frame store: a read after a write, the canonical form kept, equal contents are equal data. -/

namespace Sys2Proof.Machine

namespace Memory

@[simp] theorem read_nil (a : Nat) : read [] a = Config.powerOnCell a := rfl

theorem read_put (m : Memory) (a b : Nat) (v : Byte) : (put m a v).read b = if a = b then v else m.read b := by
  induction m with
  | nil => simp [put, read]
  | cons p rest ih =>
    obtain ⟨c, w⟩ := p
    simp only [put]
    split
    · simp [read]
    · split
      · subst_vars
        simp only [read]
        split <;> simp_all
      · simp only [read, ih]
        split <;> simp_all

theorem read_erase (m : Memory) (a b : Nat) :
    (erase m a).read b = if a = b then Config.powerOnCell b else m.read b := by
  induction m with
  | nil => simp [erase, read]
  | cons p rest ih =>
    obtain ⟨c, w⟩ := p
    simp only [erase]
    split
    · subst_vars
      simp only [read, ih]
      split <;> simp_all
    · simp only [read, ih]
      split
      · rw [if_neg (by omega)]
      · rfl

/-- A read after a write (R71): the value written at its address, the former value elsewhere. -/
theorem read_write (m : Memory) (a b : Nat) (v : Byte) : (m.write a v).read b = if a = b then v else m.read b := by
  unfold write
  split
  · rw [read_erase]
    split <;> simp_all
  · exact read_put m a b v

@[simp] theorem read_write_same (m : Memory) (a : Nat) (v : Byte) : (m.write a v).read a = v := by simp [read_write]

theorem read_write_other (m : Memory) {a b : Nat} (v : Byte) (h : a ≠ b) : (m.write a v).read b = m.read b := by
  simp [read_write, h]

theorem wfFrom_cons (lo a : Nat) (v : Byte) (rest : Memory) :
    wfFrom lo ((a, v) :: rest) = true ↔
      lo ≤ a ∧ a < 1536 ∧ v ≠ Config.powerOnCell a ∧ wfFrom (a + 1) rest = true := by
  simp [wfFrom, and_assoc]

theorem wfFrom_weaken {lo lo' : Nat} {m : Memory} (h : wfFrom lo m = true) (hl : lo' ≤ lo) : wfFrom lo' m = true := by
  cases m with
  | nil => rfl
  | cons p rest =>
    obtain ⟨c, w⟩ := p
    rw [wfFrom_cons] at h ⊢
    exact ⟨by omega, h.2⟩

theorem wfFrom_put {lo a : Nat} {v : Byte} {m : Memory} (h : wfFrom lo m = true) (hl : lo ≤ a) (ha : a < 1536)
    (hv : v ≠ Config.powerOnCell a) : wfFrom lo (put m a v) = true := by
  induction m generalizing lo with
  | nil => simp [put, wfFrom, hl, ha, hv]
  | cons p rest ih =>
    obtain ⟨c, w⟩ := p
    obtain ⟨h1, h2, h3, h4⟩ := (wfFrom_cons ..).1 h
    simp only [put]
    split
    · rw [wfFrom_cons, wfFrom_cons]
      exact ⟨hl, ha, hv, by omega, h2, h3, h4⟩
    · split
      · subst_vars
        rw [wfFrom_cons]
        exact ⟨hl, ha, hv, h4⟩
      · rw [wfFrom_cons]
        exact ⟨h1, h2, h3, ih h4 (by omega)⟩

theorem wfFrom_erase {lo : Nat} {m : Memory} (a : Nat) (h : wfFrom lo m = true) : wfFrom lo (erase m a) = true := by
  induction m generalizing lo with
  | nil => rfl
  | cons p rest ih =>
    obtain ⟨c, w⟩ := p
    obtain ⟨h1, h2, h3, h4⟩ := (wfFrom_cons ..).1 h
    simp only [erase]
    split
    · exact wfFrom_weaken (ih h4) (by omega)
    · rw [wfFrom_cons]
      exact ⟨h1, h2, h3, ih h4⟩

/-- A write inside the frame store keeps the canonical form. -/
theorem wf_write {m : Memory} {a : Nat} (v : Byte) (h : m.wf = true) (ha : a < 1536) : (m.write a v).wf = true := by
  unfold write
  split
  · exact wfFrom_erase a h
  · exact wfFrom_put h (Nat.zero_le a) ha ‹_›

/-- Below the first listed address a canonical memory reads as its power-on contents. -/
theorem read_below {lo a : Nat} {m : Memory} (h : wfFrom lo m = true) (ha : a < lo) : m.read a = Config.powerOnCell a := by
  induction m generalizing lo with
  | nil => rfl
  | cons p rest ih =>
    obtain ⟨c, w⟩ := p
    obtain ⟨h1, _, _, h4⟩ := (wfFrom_cons ..).1 h
    simp only [read]
    rw [if_neg (by omega)]
    exact ih h4 (by omega)

/-- In canonical form, equal contents are equal data. -/
theorem ext_of_wfFrom {lo : Nat} {m m' : Memory} (h : wfFrom lo m = true) (h' : wfFrom lo m' = true)
    (hr : ∀ a, m.read a = m'.read a) : m = m' := by
  induction m generalizing lo m' with
  | nil =>
    cases m' with
    | nil => rfl
    | cons p rest =>
      obtain ⟨c, w⟩ := p
      obtain ⟨_, _, h3, _⟩ := (wfFrom_cons ..).1 h'
      exact absurd (by simpa [read] using (hr c).symm) h3
  | cons p rest ih =>
    obtain ⟨c, w⟩ := p
    obtain ⟨h1, h2, h3, h4⟩ := (wfFrom_cons ..).1 h
    cases m' with
    | nil => exact absurd (by simpa [read] using hr c) h3
    | cons p' rest' =>
      obtain ⟨c', w'⟩ := p'
      obtain ⟨h1', h2', h3', h4'⟩ := (wfFrom_cons ..).1 h'
      have hc : c = c' := by
        rcases Nat.lt_trichotomy c c' with hlt | heq | hgt
        · have := hr c
          simp only [read, if_true] at this
          rw [if_neg (by omega), read_below h4' (by omega)] at this
          exact absurd this h3
        · exact heq
        · have := hr c'
          simp only [read, if_true] at this
          rw [if_neg (by omega), read_below h4 (by omega)] at this
          exact absurd this.symm h3'
      subst hc
      have hw : w = w' := by simpa [read] using hr c
      subst hw
      have : rest = rest' := ih h4 h4' fun a => by
        by_cases hac : c = a
        · subst hac
          rw [read_below h4 (by omega), read_below h4' (by omega)]
        · simpa [read, hac] using hr a
      rw [this]

end Memory

/-! ### The cells of the state -/

theorem State.cell_writeCell (s : State) (a b : Nat) (v : Byte) :
    (s.writeCell a v).cell b = if a = b then v else s.cell b := Memory.read_write s.fb a b v

theorem State.cell_rmwCell (s : State) (a b : Nat) (f : Byte → Byte) :
    (s.rmwCell a f).cell b = if a = b then f (s.cell a) else s.cell b := State.cell_writeCell s a b (f (s.cell a))

/-- Addresses of `cellRef` lie in the frame store (R68). -/
theorem cellIndex_lt (b : Bank) {o : Nat} (h : o < 384) : cellIndex b o < 1536 := by
  have := b.isLt
  unfold cellIndex
  omega

theorem cellAddr_eq_some {b : Bank} {o a : Nat} : cellAddr b o = some a ↔ o < 384 ∧ cellIndex b o = a := by
  simp [cellAddr]

theorem cellAddr_lt {b : Bank} {o a : Nat} (h : cellAddr b o = some a) : a < 1536 := by
  obtain ⟨ho, rfl⟩ := cellAddr_eq_some.1 h
  exact cellIndex_lt b ho

/-- Different cells have different addresses (R61). -/
theorem cellIndex_inj {b b' : Bank} {o o' : Nat} (h : o < 384) (h' : o' < 384)
    (he : cellIndex b o = cellIndex b' o') : b = b' ∧ o = o' := by
  unfold cellIndex at he
  exact ⟨BitVec.eq_of_toNat_eq (by omega), by omega⟩

/-! ### The set of written cells -/

theorem mem_insertCell (a b : Nat) (w : List Nat) : b ∈ insertCell a w ↔ b = a ∨ b ∈ w := by
  induction w with
  | nil => simp [insertCell]
  | cons c rest ih =>
    simp only [insertCell]
    split
    · simp
    · split
      · subst_vars
        simp
      · simp [ih]
        tauto

theorem pairwise_insertCell (a : Nat) {w : List Nat} (h : w.Pairwise (· < ·)) : (insertCell a w).Pairwise (· < ·) := by
  induction w with
  | nil => simp [insertCell]
  | cons c rest ih =>
    obtain ⟨hc, hr⟩ := List.pairwise_cons.1 h
    simp only [insertCell]
    split
    · exact List.pairwise_cons.2 ⟨fun x hx => by
        rcases List.mem_cons.1 hx with rfl | hx
        · assumption
        · have := hc x hx
          omega, h⟩
    · split
      · exact h
      · exact List.pairwise_cons.2 ⟨fun x hx => by
          rcases (mem_insertCell a x rest).1 hx with rfl | hx
          · omega
          · exact hc x hx, ih hr⟩

end Sys2Proof.Machine
end

