-- ==== Sys2Proof/Laws/Operands.lean ====
section
/-! SUPPORT. The functions of the operands: ranges, and the cells they name. -/

namespace Sys2Proof.Machine

/-- The plane cells of every pixel lie in its bank (R150). -/
theorem planeOffset_lt (x y : Coord) {p : Nat} (hp : p < 3) : planeOffset x y p < 384 := by
  have h : ∀ x y : Fin 64, offset x.val y.val < 352 := by decide
  have hr : offset x.toNat y.toNat < 352 := h ⟨x.toNat, x.isLt⟩ ⟨y.toNat, y.isLt⟩
  simp only [planeOffset]
  omega

/-- A SETPX access never leaves the frame store (R68, R150). -/
theorem planeCell_eq (x y : Coord) {p : Nat} (hp : p < 3) :
    planeCell x y p = some (cellIndex (bankOf y) (planeOffset x y p)) :=
  cellAddr_eq_some.2 ⟨planeOffset_lt x y hp, rfl⟩

theorem planeCell_lt {x y : Coord} {p a : Nat} (h : planeCell x y p = some a) : a < 1536 := cellAddr_lt h

/-- The planes of one pixel are three different cells (R74). -/
theorem planeCell_plane_inj {x y : Coord} {p q : Nat}
    (h : cellIndex (bankOf y) (planeOffset x y p) = cellIndex (bankOf y) (planeOffset x y q)) : p = q := by
  simp only [cellIndex, planeOffset] at h
  omega

theorem fillCell_lt {k a : Nat} (h : fillCell k = some a) : a < 1536 := by
  unfold fillCell at h
  split at h
  · cases h
    exact Fin.isLt _
  · cases h

theorem fillCell_isSome {k : Nat} : (fillCell k).isSome = true ↔ k < 1536 := by
  unfold fillCell
  split <;> simp_all

/-- `FILL_ORDER` names no cell twice (R121). -/
theorem fillCell_inj {j k a : Nat} (hj : fillCell j = some a) (hk : fillCell k = some a) : j = k := by
  unfold fillCell at hj hk
  split at hj
  · split at hk
    · cases hj
      have := Config.fillOrder.injective (Fin.ext (Option.some.inj hk))
      simpa using congrArg Fin.val this.symm
    · cases hk
  · cases hj

/-- `FILL_ORDER` names every cell (R121). -/
theorem fillCell_surj {a : Nat} (ha : a < 1536) : ∃ k, k < 1536 ∧ fillCell k = some a := by
  refine ⟨(Config.fillOrder.symm ⟨a, ha⟩).val, Fin.isLt _, ?_⟩
  simp [fillCell]

/-- The plane update on one line (R147): a line of the mask takes the colour bit, every other line stays. -/
theorem planeUpdate_bit (bit : Bool) (m cell : Byte) {l : Nat} (hl : l < 8) :
    (planeUpdate bit m cell).getLsbD l = if m.getLsbD l then bit else cell.getLsbD l := by
  cases bit
  · have : planeUpdate false m cell = cell &&& ~~~m := rfl
    rw [this, BitVec.getLsbD_and, BitVec.getLsbD_not]
    cases m.getLsbD l <;> simp [hl]
  · have : planeUpdate true m cell = cell ||| m := rfl
    rw [this, BitVec.getLsbD_or]
    cases m.getLsbD l <;> simp

/-- Colour bit `p` of a pixel read back is its line's bit of plane `p`'s cell (R153). -/
theorem readPixel_bit (s : State) (x y : Coord) (l : Fin 8) (p : Fin 3) :
    (readPixel s x y l).getLsbD p.val = (s.cell (cellIndex (bankOf y) (planeOffset x y p.val))).getLsbD l.val := by
  have h : ∀ b2 b1 b0 : Bool, ∀ p : Fin 3,
      (BitVec.ofBool b2 ++ BitVec.ofBool b1 ++ BitVec.ofBool b0 : BitVec 3).getLsbD p.val =
        if p.val = 0 then b0 else if p.val = 1 then b1 else b2 := by decide
  have hp : p = 0 ∨ p = 1 ∨ p = 2 := by omega
  simp only [readPixel, h]
  rcases hp with rfl | rfl | rfl <;> rfl

end Sys2Proof.Machine
end

