-- ==== Sys2Proof/Laws/PerInstr.lean ====
section
/-! SUPPORT. Statements about every command as syntax, one lemma for each constructor. -/

namespace Sys2Proof.Laws

namespace TableRow

/-- The word of a command matches the command's row of spec/opcode_table.json (spec/95 section 2.1). -/
def Statement (i : Instr) : Prop := encode i &&& i.tableMask = i.tableMatch

theorem fill (v : Byte) : Statement (.fill v) := by
  apply BitVec.eq_of_getLsbD_eq
  intro n hn
  simp only [encode, placed, Instr.tableMask, Instr.tableMatch]
  interval_cases n <;> simp

theorem setpx (x y : Coord) (c : Colour) : Statement (.setpx x y c) := by
  apply BitVec.eq_of_getLsbD_eq
  intro n hn
  simp only [encode, placed, Instr.tableMask, Instr.tableMatch]
  interval_cases n <;> simp

theorem encc (r g bl : Byte) : Statement (.encc r g bl) := by
  apply BitVec.eq_of_getLsbD_eq
  intro n hn
  simp only [encode, placed, Instr.tableMask, Instr.tableMatch]
  interval_cases n <;> simp

theorem rdcell (bk : Bank) (off : OffsetField) : Statement (.rdcell bk off) := by
  apply BitVec.eq_of_getLsbD_eq
  intro n hn
  simp only [encode, placed, Instr.tableMask, Instr.tableMatch]
  interval_cases n <;> simp

end TableRow

end Sys2Proof.Laws
end

