-- ==== Sys2Proof/Laws/State.lean ====
section
/-! SUPPORT. One lemma for each field and each named update: what the update does to the field. -/

namespace Sys2Proof.Machine

variable (s s' : State)

/-! ### setFb -/

@[simp] theorem State.setFb_fb (v : Memory) : (s.setFb v).fb = v := rfl
@[simp] theorem State.setFb_bank (v : Memory) : (s.setFb v).bank = s.bank := rfl
@[simp] theorem State.setFb_out (v : Memory) : (s.setFb v).out = s.out := rfl
@[simp] theorem State.setFb_resp (v : Memory) : (s.setFb v).resp = s.resp := rfl
@[simp] theorem State.setFb_host (v : Memory) : (s.setFb v).host = s.host := rfl
@[simp] theorem State.setFb_fsm (v : Memory) : (s.setFb v).fsm = s.fsm := rfl
@[simp] theorem State.setFb_refused (v : Memory) : (s.setFb v).refused = s.refused := rfl
@[simp] theorem State.setFb_panel (v : Memory) : (s.setFb v).panel = s.panel := rfl
@[simp] theorem State.setFb_commands (v : Memory) : (s.setFb v).commands = s.commands := rfl
@[simp] theorem State.setFb_turns (v : Memory) : (s.setFb v).turns = s.turns := rfl
@[simp] theorem State.setFb_draws (v : Memory) : (s.setFb v).draws = s.draws := rfl

/-! ### setBank -/

@[simp] theorem State.setBank_fb (v : Bank) : (s.setBank v).fb = s.fb := rfl
@[simp] theorem State.setBank_bank (v : Bank) : (s.setBank v).bank = v := rfl
@[simp] theorem State.setBank_out (v : Bank) : (s.setBank v).out = s.out := rfl
@[simp] theorem State.setBank_resp (v : Bank) : (s.setBank v).resp = s.resp := rfl
@[simp] theorem State.setBank_host (v : Bank) : (s.setBank v).host = s.host := rfl
@[simp] theorem State.setBank_fsm (v : Bank) : (s.setBank v).fsm = s.fsm := rfl
@[simp] theorem State.setBank_refused (v : Bank) : (s.setBank v).refused = s.refused := rfl
@[simp] theorem State.setBank_panel (v : Bank) : (s.setBank v).panel = s.panel := rfl
@[simp] theorem State.setBank_commands (v : Bank) : (s.setBank v).commands = s.commands := rfl
@[simp] theorem State.setBank_turns (v : Bank) : (s.setBank v).turns = s.turns := rfl
@[simp] theorem State.setBank_draws (v : Bank) : (s.setBank v).draws = s.draws := rfl

/-! ### setOut -/

@[simp] theorem State.setOut_fb (v : Lines) : (s.setOut v).fb = s.fb := rfl
@[simp] theorem State.setOut_bank (v : Lines) : (s.setOut v).bank = s.bank := rfl
@[simp] theorem State.setOut_out (v : Lines) : (s.setOut v).out = v := rfl
@[simp] theorem State.setOut_resp (v : Lines) : (s.setOut v).resp = s.resp := rfl
@[simp] theorem State.setOut_host (v : Lines) : (s.setOut v).host = s.host := rfl
@[simp] theorem State.setOut_fsm (v : Lines) : (s.setOut v).fsm = s.fsm := rfl
@[simp] theorem State.setOut_refused (v : Lines) : (s.setOut v).refused = s.refused := rfl
@[simp] theorem State.setOut_panel (v : Lines) : (s.setOut v).panel = s.panel := rfl
@[simp] theorem State.setOut_commands (v : Lines) : (s.setOut v).commands = s.commands := rfl
@[simp] theorem State.setOut_turns (v : Lines) : (s.setOut v).turns = s.turns := rfl
@[simp] theorem State.setOut_draws (v : Lines) : (s.setOut v).draws = s.draws := rfl

/-! ### setResp -/

@[simp] theorem State.setResp_fb (v : Byte) : (s.setResp v).fb = s.fb := rfl
@[simp] theorem State.setResp_bank (v : Byte) : (s.setResp v).bank = s.bank := rfl
@[simp] theorem State.setResp_out (v : Byte) : (s.setResp v).out = s.out := rfl
@[simp] theorem State.setResp_resp (v : Byte) : (s.setResp v).resp = v := rfl
@[simp] theorem State.setResp_host (v : Byte) : (s.setResp v).host = s.host := rfl
@[simp] theorem State.setResp_fsm (v : Byte) : (s.setResp v).fsm = s.fsm := rfl
@[simp] theorem State.setResp_refused (v : Byte) : (s.setResp v).refused = s.refused := rfl
@[simp] theorem State.setResp_panel (v : Byte) : (s.setResp v).panel = s.panel := rfl
@[simp] theorem State.setResp_commands (v : Byte) : (s.setResp v).commands = s.commands := rfl
@[simp] theorem State.setResp_turns (v : Byte) : (s.setResp v).turns = s.turns := rfl
@[simp] theorem State.setResp_draws (v : Byte) : (s.setResp v).draws = s.draws := rfl

/-! ### setHost -/

@[simp] theorem State.setHost_fb (v : HostPort) : (s.setHost v).fb = s.fb := rfl
@[simp] theorem State.setHost_bank (v : HostPort) : (s.setHost v).bank = s.bank := rfl
@[simp] theorem State.setHost_out (v : HostPort) : (s.setHost v).out = s.out := rfl
@[simp] theorem State.setHost_resp (v : HostPort) : (s.setHost v).resp = s.resp := rfl
@[simp] theorem State.setHost_host (v : HostPort) : (s.setHost v).host = v := rfl
@[simp] theorem State.setHost_fsm (v : HostPort) : (s.setHost v).fsm = s.fsm := rfl
@[simp] theorem State.setHost_refused (v : HostPort) : (s.setHost v).refused = s.refused := rfl
@[simp] theorem State.setHost_panel (v : HostPort) : (s.setHost v).panel = s.panel := rfl
@[simp] theorem State.setHost_commands (v : HostPort) : (s.setHost v).commands = s.commands := rfl
@[simp] theorem State.setHost_turns (v : HostPort) : (s.setHost v).turns = s.turns := rfl
@[simp] theorem State.setHost_draws (v : HostPort) : (s.setHost v).draws = s.draws := rfl

/-! ### setFsm -/

@[simp] theorem State.setFsm_fb (v : Fsm) : (s.setFsm v).fb = s.fb := rfl
@[simp] theorem State.setFsm_bank (v : Fsm) : (s.setFsm v).bank = s.bank := rfl
@[simp] theorem State.setFsm_out (v : Fsm) : (s.setFsm v).out = s.out := rfl
@[simp] theorem State.setFsm_resp (v : Fsm) : (s.setFsm v).resp = s.resp := rfl
@[simp] theorem State.setFsm_host (v : Fsm) : (s.setFsm v).host = s.host := rfl
@[simp] theorem State.setFsm_fsm (v : Fsm) : (s.setFsm v).fsm = v := rfl
@[simp] theorem State.setFsm_refused (v : Fsm) : (s.setFsm v).refused = s.refused := rfl
@[simp] theorem State.setFsm_panel (v : Fsm) : (s.setFsm v).panel = s.panel := rfl
@[simp] theorem State.setFsm_commands (v : Fsm) : (s.setFsm v).commands = s.commands := rfl
@[simp] theorem State.setFsm_turns (v : Fsm) : (s.setFsm v).turns = s.turns := rfl
@[simp] theorem State.setFsm_draws (v : Fsm) : (s.setFsm v).draws = s.draws := rfl

/-! ### setRefused -/

@[simp] theorem State.setRefused_fb (v : Bool) : (s.setRefused v).fb = s.fb := rfl
@[simp] theorem State.setRefused_bank (v : Bool) : (s.setRefused v).bank = s.bank := rfl
@[simp] theorem State.setRefused_out (v : Bool) : (s.setRefused v).out = s.out := rfl
@[simp] theorem State.setRefused_resp (v : Bool) : (s.setRefused v).resp = s.resp := rfl
@[simp] theorem State.setRefused_host (v : Bool) : (s.setRefused v).host = s.host := rfl
@[simp] theorem State.setRefused_fsm (v : Bool) : (s.setRefused v).fsm = s.fsm := rfl
@[simp] theorem State.setRefused_refused (v : Bool) : (s.setRefused v).refused = v := rfl
@[simp] theorem State.setRefused_panel (v : Bool) : (s.setRefused v).panel = s.panel := rfl
@[simp] theorem State.setRefused_commands (v : Bool) : (s.setRefused v).commands = s.commands := rfl
@[simp] theorem State.setRefused_turns (v : Bool) : (s.setRefused v).turns = s.turns := rfl
@[simp] theorem State.setRefused_draws (v : Bool) : (s.setRefused v).draws = s.draws := rfl

/-! ### setPanel -/

@[simp] theorem State.setPanel_fb (v : Panel) : (s.setPanel v).fb = s.fb := rfl
@[simp] theorem State.setPanel_bank (v : Panel) : (s.setPanel v).bank = s.bank := rfl
@[simp] theorem State.setPanel_out (v : Panel) : (s.setPanel v).out = s.out := rfl
@[simp] theorem State.setPanel_resp (v : Panel) : (s.setPanel v).resp = s.resp := rfl
@[simp] theorem State.setPanel_host (v : Panel) : (s.setPanel v).host = s.host := rfl
@[simp] theorem State.setPanel_fsm (v : Panel) : (s.setPanel v).fsm = s.fsm := rfl
@[simp] theorem State.setPanel_refused (v : Panel) : (s.setPanel v).refused = s.refused := rfl
@[simp] theorem State.setPanel_panel (v : Panel) : (s.setPanel v).panel = v := rfl
@[simp] theorem State.setPanel_commands (v : Panel) : (s.setPanel v).commands = s.commands := rfl
@[simp] theorem State.setPanel_turns (v : Panel) : (s.setPanel v).turns = s.turns := rfl
@[simp] theorem State.setPanel_draws (v : Panel) : (s.setPanel v).draws = s.draws := rfl

/-! ### setCommands -/

@[simp] theorem State.setCommands_fb (v : List CommandWord) : (s.setCommands v).fb = s.fb := rfl
@[simp] theorem State.setCommands_bank (v : List CommandWord) : (s.setCommands v).bank = s.bank := rfl
@[simp] theorem State.setCommands_out (v : List CommandWord) : (s.setCommands v).out = s.out := rfl
@[simp] theorem State.setCommands_resp (v : List CommandWord) : (s.setCommands v).resp = s.resp := rfl
@[simp] theorem State.setCommands_host (v : List CommandWord) : (s.setCommands v).host = s.host := rfl
@[simp] theorem State.setCommands_fsm (v : List CommandWord) : (s.setCommands v).fsm = s.fsm := rfl
@[simp] theorem State.setCommands_refused (v : List CommandWord) : (s.setCommands v).refused = s.refused := rfl
@[simp] theorem State.setCommands_panel (v : List CommandWord) : (s.setCommands v).panel = s.panel := rfl
@[simp] theorem State.setCommands_commands (v : List CommandWord) : (s.setCommands v).commands = v := rfl
@[simp] theorem State.setCommands_turns (v : List CommandWord) : (s.setCommands v).turns = s.turns := rfl
@[simp] theorem State.setCommands_draws (v : List CommandWord) : (s.setCommands v).draws = s.draws := rfl

/-! ### setTurns -/

@[simp] theorem State.setTurns_fb (v : List Turn) : (s.setTurns v).fb = s.fb := rfl
@[simp] theorem State.setTurns_bank (v : List Turn) : (s.setTurns v).bank = s.bank := rfl
@[simp] theorem State.setTurns_out (v : List Turn) : (s.setTurns v).out = s.out := rfl
@[simp] theorem State.setTurns_resp (v : List Turn) : (s.setTurns v).resp = s.resp := rfl
@[simp] theorem State.setTurns_host (v : List Turn) : (s.setTurns v).host = s.host := rfl
@[simp] theorem State.setTurns_fsm (v : List Turn) : (s.setTurns v).fsm = s.fsm := rfl
@[simp] theorem State.setTurns_refused (v : List Turn) : (s.setTurns v).refused = s.refused := rfl
@[simp] theorem State.setTurns_panel (v : List Turn) : (s.setTurns v).panel = s.panel := rfl
@[simp] theorem State.setTurns_commands (v : List Turn) : (s.setTurns v).commands = s.commands := rfl
@[simp] theorem State.setTurns_turns (v : List Turn) : (s.setTurns v).turns = v := rfl
@[simp] theorem State.setTurns_draws (v : List Turn) : (s.setTurns v).draws = s.draws := rfl

/-! ### setDraws -/

@[simp] theorem State.setDraws_fb (v : Nat) : (s.setDraws v).fb = s.fb := rfl
@[simp] theorem State.setDraws_bank (v : Nat) : (s.setDraws v).bank = s.bank := rfl
@[simp] theorem State.setDraws_out (v : Nat) : (s.setDraws v).out = s.out := rfl
@[simp] theorem State.setDraws_resp (v : Nat) : (s.setDraws v).resp = s.resp := rfl
@[simp] theorem State.setDraws_host (v : Nat) : (s.setDraws v).host = s.host := rfl
@[simp] theorem State.setDraws_fsm (v : Nat) : (s.setDraws v).fsm = s.fsm := rfl
@[simp] theorem State.setDraws_refused (v : Nat) : (s.setDraws v).refused = s.refused := rfl
@[simp] theorem State.setDraws_panel (v : Nat) : (s.setDraws v).panel = s.panel := rfl
@[simp] theorem State.setDraws_commands (v : Nat) : (s.setDraws v).commands = s.commands := rfl
@[simp] theorem State.setDraws_turns (v : Nat) : (s.setDraws v).turns = s.turns := rfl
@[simp] theorem State.setDraws_draws (v : Nat) : (s.setDraws v).draws = v := rfl

/-! ### The panel's reaction, and the refusal of a word -/

@[simp] theorem observeLines_fb : (observeLines s s').fb = s'.fb := rfl
@[simp] theorem observeLines_bank : (observeLines s s').bank = s'.bank := rfl
@[simp] theorem observeLines_out : (observeLines s s').out = s'.out := rfl
@[simp] theorem observeLines_resp : (observeLines s s').resp = s'.resp := rfl
@[simp] theorem observeLines_host : (observeLines s s').host = s'.host := rfl
@[simp] theorem observeLines_fsm : (observeLines s s').fsm = s'.fsm := rfl
@[simp] theorem observeLines_refused : (observeLines s s').refused = s'.refused := rfl
@[simp] theorem observeLines_panel : (observeLines s s').panel = s.panel.observe s.out s'.out := rfl
@[simp] theorem observeLines_commands : (observeLines s s').commands = s'.commands := rfl
@[simp] theorem observeLines_turns : (observeLines s s').turns = s'.turns := rfl
@[simp] theorem observeLines_draws : (observeLines s s').draws = s'.draws := rfl

@[simp] theorem refuseWord_fb : (refuseWord s).fb = s.fb := rfl
@[simp] theorem refuseWord_bank : (refuseWord s).bank = s.bank := rfl
@[simp] theorem refuseWord_out : (refuseWord s).out = s.out := rfl
@[simp] theorem refuseWord_resp : (refuseWord s).resp = s.resp := rfl
@[simp] theorem refuseWord_host : (refuseWord s).host = .ready := rfl
@[simp] theorem refuseWord_fsm : (refuseWord s).fsm = s.fsm := rfl
@[simp] theorem refuseWord_refused : (refuseWord s).refused = true := rfl
@[simp] theorem refuseWord_panel : (refuseWord s).panel = s.panel := rfl
@[simp] theorem refuseWord_commands : (refuseWord s).commands = s.commands := rfl
@[simp] theorem refuseWord_turns : (refuseWord s).turns = s.turns := rfl
@[simp] theorem refuseWord_draws : (refuseWord s).draws = s.draws := rfl

/-! ### The cells -/

@[simp] theorem State.cell_setBank (v : Bank) (a : Nat) : (s.setBank v).cell a = s.cell a := rfl
@[simp] theorem State.cell_setOut (v : Lines) (a : Nat) : (s.setOut v).cell a = s.cell a := rfl
@[simp] theorem State.cell_setResp (v : Byte) (a : Nat) : (s.setResp v).cell a = s.cell a := rfl
@[simp] theorem State.cell_setHost (v : HostPort) (a : Nat) : (s.setHost v).cell a = s.cell a := rfl
@[simp] theorem State.cell_setFsm (v : Fsm) (a : Nat) : (s.setFsm v).cell a = s.cell a := rfl
@[simp] theorem State.cell_setRefused (v : Bool) (a : Nat) : (s.setRefused v).cell a = s.cell a := rfl
@[simp] theorem State.cell_setPanel (v : Panel) (a : Nat) : (s.setPanel v).cell a = s.cell a := rfl
@[simp] theorem State.cell_setCommands (v : List CommandWord) (a : Nat) : (s.setCommands v).cell a = s.cell a := rfl
@[simp] theorem State.cell_setTurns (v : List Turn) (a : Nat) : (s.setTurns v).cell a = s.cell a := rfl
@[simp] theorem State.cell_setDraws (v : Nat) (a : Nat) : (s.setDraws v).cell a = s.cell a := rfl
@[simp] theorem State.cell_setFb (m : Memory) (a : Nat) : (s.setFb m).cell a = m.read a := rfl
@[simp] theorem cell_observeLines (a : Nat) : (observeLines s s').cell a = s'.cell a := rfl

/-! ### Writing a cell touches the frame store only -/

@[simp] theorem State.writeCell_fb (a : Nat) (v : Byte) : (s.writeCell a v).fb = s.fb.write a v := rfl
@[simp] theorem State.writeCell_bank (a : Nat) (v : Byte) : (s.writeCell a v).bank = s.bank := rfl
@[simp] theorem State.writeCell_out (a : Nat) (v : Byte) : (s.writeCell a v).out = s.out := rfl
@[simp] theorem State.writeCell_resp (a : Nat) (v : Byte) : (s.writeCell a v).resp = s.resp := rfl
@[simp] theorem State.writeCell_host (a : Nat) (v : Byte) : (s.writeCell a v).host = s.host := rfl
@[simp] theorem State.writeCell_fsm (a : Nat) (v : Byte) : (s.writeCell a v).fsm = s.fsm := rfl
@[simp] theorem State.writeCell_refused (a : Nat) (v : Byte) : (s.writeCell a v).refused = s.refused := rfl
@[simp] theorem State.writeCell_panel (a : Nat) (v : Byte) : (s.writeCell a v).panel = s.panel := rfl
@[simp] theorem State.writeCell_commands (a : Nat) (v : Byte) : (s.writeCell a v).commands = s.commands := rfl
@[simp] theorem State.writeCell_turns (a : Nat) (v : Byte) : (s.writeCell a v).turns = s.turns := rfl
@[simp] theorem State.writeCell_draws (a : Nat) (v : Byte) : (s.writeCell a v).draws = s.draws := rfl

@[simp] theorem State.rmwCell_fb (a : Nat) (g : Byte → Byte) : (s.rmwCell a g).fb = s.fb.write a (g (s.cell a)) := rfl
@[simp] theorem State.rmwCell_bank (a : Nat) (g : Byte → Byte) : (s.rmwCell a g).bank = s.bank := rfl
@[simp] theorem State.rmwCell_out (a : Nat) (g : Byte → Byte) : (s.rmwCell a g).out = s.out := rfl
@[simp] theorem State.rmwCell_resp (a : Nat) (g : Byte → Byte) : (s.rmwCell a g).resp = s.resp := rfl
@[simp] theorem State.rmwCell_host (a : Nat) (g : Byte → Byte) : (s.rmwCell a g).host = s.host := rfl
@[simp] theorem State.rmwCell_fsm (a : Nat) (g : Byte → Byte) : (s.rmwCell a g).fsm = s.fsm := rfl
@[simp] theorem State.rmwCell_refused (a : Nat) (g : Byte → Byte) : (s.rmwCell a g).refused = s.refused := rfl
@[simp] theorem State.rmwCell_panel (a : Nat) (g : Byte → Byte) : (s.rmwCell a g).panel = s.panel := rfl
@[simp] theorem State.rmwCell_commands (a : Nat) (g : Byte → Byte) : (s.rmwCell a g).commands = s.commands := rfl
@[simp] theorem State.rmwCell_turns (a : Nat) (g : Byte → Byte) : (s.rmwCell a g).turns = s.turns := rfl
@[simp] theorem State.rmwCell_draws (a : Nat) (g : Byte → Byte) : (s.rmwCell a g).draws = s.draws := rfl

end Sys2Proof.Machine
end

