-- ==== Sys2Proof/Laws/Scan.lean ====
section
/-! SUPPORT. The scan engine's turn and the tick touch nothing of the host's side. -/

namespace Sys2Proof.Machine

@[simp] theorem scanTurn_fb (s : State) : (scanTurn s).fb = s.fb := by
  unfold scanTurn
  split <;> rfl
@[simp] theorem scanTurn_resp (s : State) : (scanTurn s).resp = s.resp := by
  unfold scanTurn
  split <;> rfl
@[simp] theorem scanTurn_host (s : State) : (scanTurn s).host = s.host := by
  unfold scanTurn
  split <;> rfl
@[simp] theorem scanTurn_refused (s : State) : (scanTurn s).refused = s.refused := by
  unfold scanTurn
  split <;> rfl
@[simp] theorem scanTurn_panel (s : State) : (scanTurn s).panel = s.panel := by
  unfold scanTurn
  split <;> rfl
@[simp] theorem scanTurn_commands (s : State) : (scanTurn s).commands = s.commands := by
  unfold scanTurn
  split <;> rfl
@[simp] theorem scanTurn_turns (s : State) : (scanTurn s).turns = s.turns := by
  unfold scanTurn
  split <;> rfl
@[simp] theorem scanTurn_draws (s : State) : (scanTurn s).draws = s.draws := by
  unfold scanTurn
  split <;> rfl

@[simp] theorem acceptTick_fb (s : State) : (acceptTick s).fb = s.fb := by
  unfold acceptTick
  split <;> rfl
@[simp] theorem acceptTick_bank (s : State) : (acceptTick s).bank = s.bank := by
  unfold acceptTick
  split <;> rfl
@[simp] theorem acceptTick_out (s : State) : (acceptTick s).out = s.out := by
  unfold acceptTick
  split <;> rfl
@[simp] theorem acceptTick_resp (s : State) : (acceptTick s).resp = s.resp := by
  unfold acceptTick
  split <;> rfl
@[simp] theorem acceptTick_host (s : State) : (acceptTick s).host = s.host := by
  unfold acceptTick
  split <;> rfl
@[simp] theorem acceptTick_refused (s : State) : (acceptTick s).refused = s.refused := by
  unfold acceptTick
  split <;> rfl
@[simp] theorem acceptTick_panel (s : State) : (acceptTick s).panel = s.panel := by
  unfold acceptTick
  split <;> rfl
@[simp] theorem acceptTick_commands (s : State) : (acceptTick s).commands = s.commands := by
  unfold acceptTick
  split <;> rfl
@[simp] theorem acceptTick_turns (s : State) : (acceptTick s).turns = s.turns := by
  unfold acceptTick
  split <;> rfl
@[simp] theorem acceptTick_draws (s : State) : (acceptTick s).draws = s.draws := by
  unfold acceptTick
  split <;> rfl

theorem acceptTick_idle {s : State} (h : s.fsm = .idle) : acceptTick s = s.setFsm (.data 0) := by simp [acceptTick, h]

theorem acceptTick_busy {s : State} (h : s.fsm ≠ .idle) : acceptTick s = s := by
  unfold acceptTick
  split
  · contradiction
  · rfl

/-- A shift moves every stage one on and takes the data line in at stage 0 (R206). -/
theorem shiftIn_stage (sr : Vector Stages 8) (d : Byte) (l : Fin 8) (k : Nat) (hk : k < 384) :
    (shiftIn sr d)[l].getLsbD k = if k = 0 then d.getLsbD l.val else sr[l].getLsbD (k - 1) := by
  have hl : (shiftIn sr d)[l] = sr[l].shiftConcat (d.getLsbD l.val) := by simp [shiftIn]
  rw [hl, BitVec.getLsbD_shiftConcat]
  simp [hk]

end Sys2Proof.Machine
end

