-- ==== Sys2Proof/Laws/Steps.lean ====
section
/-! SUPPORT. What each shared operation of the commands, the agents and the step can do, said once. -/

namespace Sys2Proof.Machine

/-! ### Commands -/

/-- One host micro-step of a command: the acceptance, the next micro-step, or a word that waits. -/
theorem runCommand_next {i : Instr} {acc : State → Result} {mic : Nat → List Nat → State → Result} {s t : State}
    (h : runCommand i acc mic s = .next t) :
    (s.host = .ready ∧ acc s = .next t) ∨
    (∃ k written, s.host = .busy i k written ∧ mic k written s = .next t) ∨
    (∃ j k written, s.host = .busy j k written ∧ j ≠ i ∧ t = s) := by
  unfold runCommand at h
  split at h
  · exact .inl ⟨‹_›, h⟩
  · split at h
    · subst_vars
      exact .inr (.inl ⟨_, _, ‹_›, h⟩)
    · exact .inr (.inr ⟨_, _, _, ‹_›, ‹_›, by simpa using h.symm⟩)

theorem runCommand_ready {i : Instr} {acc : State → Result} {mic : Nat → List Nat → State → Result} {s : State}
    (h : s.host = .ready) : runCommand i acc mic s = acc s := by simp [runCommand, h]

theorem runCommand_busy {i : Instr} {acc : State → Result} {mic : Nat → List Nat → State → Result} {s : State} {k : Nat}
    {written : List Nat} (h : s.host = .busy i k written) : runCommand i acc mic s = mic k written s := by
  simp [runCommand, h]

theorem fillStep_next {v : Byte} {k : Nat} {written : List Nat} {s t : State} (h : fillStep v k written s = .next t) :
    ∃ a, fillCell k = some a ∧ t = (s.writeCell a v).setHost (portAfter (.fill v) k (insertCell a written)) := by
  unfold fillStep at h
  split at h
  · exact ⟨_, ‹_›, by simpa using h.symm⟩
  · cases h

theorem rdcellAccept_next {bk : Bank} {off : OffsetField} {s t : State} (h : rdcellAccept bk off s = .next t) :
    (off.toNat < 384 ∧ t = s.setHost (.busy (.rdcell bk off) 0 [])) ∨ (¬ off.toNat < 384 ∧ t = refuseWord s) := by
  simp only [rdcellAccept, Instr.wellFormed, acceptCommand, decide_eq_true_eq] at h
  split at h
  · exact .inl ⟨‹_›, by simpa using h.symm⟩
  · exact .inr ⟨‹_›, by simpa using h.symm⟩

theorem rdcellStep_next {bk : Bank} {off : OffsetField} {k : Nat} {s t : State} (h : rdcellStep bk off k s = .next t) :
    k = 0 ∧ off.toNat < 384 ∧ t = (s.setResp (s.cell (cellIndex bk off.toNat))).setHost .ready := by
  unfold rdcellStep at h
  split at h
  · subst_vars
    split at h
    · rename_i a ha
      obtain ⟨ho, rfl⟩ := cellAddr_eq_some.1 ha
      exact ⟨rfl, ho, by simpa [portAfter, microSteps] using h.symm⟩
    · cases h
  · cases h

theorem setpxStep_next {x y : Coord} {c : Colour} {k : Nat} {s t : State} (h : setpxStep x y c k s = .next t) :
    k < 3 ∧ ∃ a, planeCell x y k = some a ∧
      t = (s.rmwCell a (planeUpdate (c.getLsbD k) (maskOf Config.lineMap y))).setHost (portAfter (.setpx x y c) k []) := by
  unfold setpxStep at h
  split at h
  · split at h
    · exact ⟨‹_›, _, ‹_›, by simpa using h.symm⟩
    · cases h
  · cases h

/-! Each instruction's meaning, when it answers a next state. -/

theorem execFill_next {v : Byte} {s t : State} (h : exec (.fill v) s = .next t) :
    (s.host = .ready ∧ t = s.setHost (.busy (.fill v) 0 [])) ∨
    (∃ k written a, s.host = .busy (.fill v) k written ∧ fillCell k = some a ∧
      t = (s.writeCell a v).setHost (portAfter (.fill v) k (insertCell a written))) ∨
    (∃ j k written, s.host = .busy j k written ∧ j ≠ .fill v ∧ t = s) := by
  rcases runCommand_next h with ⟨hr, h⟩ | ⟨k, written, hb, h⟩ | hw
  · exact .inl ⟨hr, by simpa [acceptCommand] using h.symm⟩
  · obtain ⟨a, ha, rfl⟩ := fillStep_next h
    exact .inr (.inl ⟨k, written, a, hb, ha, rfl⟩)
  · exact .inr (.inr hw)

theorem execSetpx_next {x y : Coord} {c : Colour} {s t : State} (h : exec (.setpx x y c) s = .next t) :
    (s.host = .ready ∧ t = s.setHost (.busy (.setpx x y c) 0 [])) ∨
    (∃ k written a, s.host = .busy (.setpx x y c) k written ∧ k < 3 ∧ planeCell x y k = some a ∧
      t = (s.rmwCell a (planeUpdate (c.getLsbD k) (maskOf Config.lineMap y))).setHost
        (portAfter (.setpx x y c) k [])) ∨
    (∃ j k written, s.host = .busy j k written ∧ j ≠ .setpx x y c ∧ t = s) := by
  rcases runCommand_next h with ⟨hr, h⟩ | ⟨k, written, hb, h⟩ | hw
  · exact .inl ⟨hr, by simpa [acceptCommand] using h.symm⟩
  · obtain ⟨hk, a, ha, rfl⟩ := setpxStep_next h
    exact .inr (.inl ⟨k, written, a, hb, hk, ha, rfl⟩)
  · exact .inr (.inr hw)

theorem execEncc_next {r g bl : Byte} {s t : State} (h : exec (.encc r g bl) s = .next t) :
    (s.host = .ready ∧ t = s.setResp ((encodeColor r g bl).zeroExtend 8)) ∨
    (∃ j k written, s.host = .busy j k written ∧ j ≠ .encc r g bl ∧ t = s) := by
  have h' : runCommand (.encc r g bl) (enccAccept r g bl) (fun k _ _ => .fault (.noMicroStep k)) s = .next t := h
  rcases runCommand_next h' with ⟨hr, h⟩ | ⟨k, written, hb, h⟩ | hw
  · refine .inl ⟨hr, ?_⟩
    have : s.setHost .ready = s := by simp [State.setHost, ← hr]
    simp only [enccAccept, Host.Outcome.next.injEq] at h
    rw [← h, ← this]
    rfl
  · cases h
  · exact .inr hw

theorem execRdcell_next {bk : Bank} {off : OffsetField} {s t : State} (h : exec (.rdcell bk off) s = .next t) :
    (s.host = .ready ∧ off.toNat < 384 ∧ t = s.setHost (.busy (.rdcell bk off) 0 [])) ∨
    (s.host = .ready ∧ ¬ off.toNat < 384 ∧ t = refuseWord s) ∨
    (∃ written, s.host = .busy (.rdcell bk off) 0 written ∧ off.toNat < 384 ∧
      t = (s.setResp (s.cell (cellIndex bk off.toNat))).setHost .ready) ∨
    (∃ j k written, s.host = .busy j k written ∧ j ≠ .rdcell bk off ∧ t = s) := by
  rcases runCommand_next h with ⟨hr, h⟩ | ⟨k, written, hb, h⟩ | hw
  · rcases rdcellAccept_next h with ⟨ho, ht⟩ | ⟨ho, ht⟩
    · exact .inl ⟨hr, ho, ht⟩
    · exact .inr (.inl ⟨hr, ho, ht⟩)
  · obtain ⟨rfl, ho, ht⟩ := rdcellStep_next h
    exact .inr (.inr (.inl ⟨written, hb, ho, ht⟩))
  · exact .inr (.inr (.inr hw))

/-! ### Turns and steps -/

@[simp] theorem State.takeTurn_fb (s : State) : s.takeTurn.2.fb = s.fb := by
  unfold State.takeTurn
  split <;> rfl
@[simp] theorem State.takeTurn_bank (s : State) : s.takeTurn.2.bank = s.bank := by
  unfold State.takeTurn
  split <;> rfl
@[simp] theorem State.takeTurn_out (s : State) : s.takeTurn.2.out = s.out := by
  unfold State.takeTurn
  split <;> rfl
@[simp] theorem State.takeTurn_resp (s : State) : s.takeTurn.2.resp = s.resp := by
  unfold State.takeTurn
  split <;> rfl
@[simp] theorem State.takeTurn_host (s : State) : s.takeTurn.2.host = s.host := by
  unfold State.takeTurn
  split <;> rfl
@[simp] theorem State.takeTurn_fsm (s : State) : s.takeTurn.2.fsm = s.fsm := by
  unfold State.takeTurn
  split <;> rfl
@[simp] theorem State.takeTurn_refused (s : State) : s.takeTurn.2.refused = s.refused := by
  unfold State.takeTurn
  split <;> rfl
@[simp] theorem State.takeTurn_panel (s : State) : s.takeTurn.2.panel = s.panel := by
  unfold State.takeTurn
  split <;> rfl
@[simp] theorem State.takeTurn_commands (s : State) : s.takeTurn.2.commands = s.commands := by
  unfold State.takeTurn
  split <;> rfl
@[simp] theorem State.cell_takeTurn (s : State) (a : Nat) : s.takeTurn.2.cell a = s.cell a := by simp [State.cell]

theorem State.takeTurn_cons {s : State} {t : Turn} {rest : List Turn} (h : s.turns = t :: rest) :
    s.takeTurn = (t, s.setTurns rest) := by simp [State.takeTurn, h]

/-- With no turn listed, the free choice of the counter's number moves. -/
theorem State.takeTurn_nil {s : State} (h : s.turns = []) :
    s.takeTurn = (Config.nextTurn s.draws, s.setDraws (s.draws + 1)) := by simp [State.takeTurn, h]

/-- Ticks keep arriving among the free choices (R170). -/
theorem nextTurn_fair : TickFair Config.nextTurn := Config.schedule.fair

theorem State.takeWord_cons {s : State} {w : CommandWord} {rest : List CommandWord} (h : s.commands = w :: rest) :
    s.takeWord = some (w, s.setCommands rest) := by simp [State.takeWord, h]

/-- The word taken is the first one waiting, and nothing else changes. -/
theorem State.takeWord_some {s s' : State} {w : CommandWord} (h : s.takeWord = some (w, s')) :
    ∃ rest, s.commands = w :: rest ∧ s' = s.setCommands rest := by
  unfold State.takeWord at h
  split at h
  · cases h
  · rename_i w' rest hc
    simp only [Option.some.injEq, Prod.mk.injEq] at h
    obtain ⟨rfl, rfl⟩ := h
    exact ⟨rest, hc, rfl⟩

/-- A word taken: it is a command and runs by its meaning, or it is reserved and refused. -/
theorem presentWord_next {w : CommandWord} {s t : State} (h : presentWord w s = .next t) :
    (∃ i, decode w = .ok i ∧ exec i s = .next t) ∨ (∃ r, decode w = .error r ∧ t = refuseWord s) := by
  unfold presentWord at h
  split at h
  · exact .inl ⟨_, ‹_›, h⟩
  · exact .inr ⟨_, ‹_›, by simpa using h.symm⟩

/-- A host turn: no word to take, a word taken by a ready port, or the next micro-step of the command in progress. -/
theorem hostTurn_next {s t : State} (h : hostTurn s = .next t) :
    (s.host = .ready ∧ s.commands = [] ∧ t = s) ∨
    (∃ w rest, s.host = .ready ∧ s.commands = w :: rest ∧ presentWord w (s.setCommands rest) = .next t) ∨
    (∃ i k written, s.host = .busy i k written ∧ exec i s = .next t) := by
  unfold hostTurn at h
  split at h
  · rename_i hr
    split at h
    · rename_i hn
      refine .inl ⟨hr, ?_, by simpa using h.symm⟩
      unfold State.takeWord at hn
      split at hn
      · assumption
      · cases hn
    · rename_i w s' hw
      obtain ⟨rest, hc, rfl⟩ := State.takeWord_some hw
      exact .inr (.inl ⟨w, rest, hr, hc, h⟩)
  · exact .inr (.inr ⟨_, _, _, ‹_›, h⟩)

/-- A step is the turn of one agent, then the panel's reaction. -/
theorem step_next {s t : State} (h : step s = .next t) :
    ∃ t', agentTurn s.takeTurn.1 s.takeTurn.2 = .next t' ∧ t = observeLines s t' := by
  unfold step withPanel at h
  split at h
  · exact ⟨_, ‹_›, by simpa using h.symm⟩
  · cases h
  · cases h

/-- The three kinds of step. -/
theorem step_next_cases {s t : State} (h : step s = .next t) :
    (s.takeTurn.1 = .host ∧ ∃ t', hostTurn s.takeTurn.2 = .next t' ∧ t = observeLines s t') ∨
    (s.takeTurn.1 = .scan ∧ t = observeLines s (scanTurn s.takeTurn.2)) ∨
    (s.takeTurn.1 = .tick ∧ t = observeLines s (acceptTick s.takeTurn.2)) := by
  obtain ⟨t', h', rfl⟩ := step_next h
  cases hu : s.takeTurn.1 <;> rw [hu] at h'
  · exact .inl ⟨rfl, t', h', rfl⟩
  · cases h'
    exact .inr (.inl ⟨rfl, rfl⟩)
  · cases h'
    exact .inr (.inr ⟨rfl, rfl⟩)

theorem step_of_turn {s t' : State} (h : agentTurn s.takeTurn.1 s.takeTurn.2 = .next t') :
    step s = .next (observeLines s t') := by simp [step, withPanel, h]

/-! ### Runs -/

@[simp] theorem run_zero (s : State) : run 0 s = .next s := rfl

theorem run_succ_next {n : Nat} {s t : State} (h : run (n + 1) s = .next t) :
    ∃ s', step s = .next s' ∧ run n s' = .next t := by
  simp only [run, Host.Core.run] at h ⊢
  split at h
  · exact ⟨_, ‹_›, h⟩
  · cases h
  · cases h

theorem run_succ_of_step {n : Nat} {s s' : State} (h : step s = .next s') : run (n + 1) s = run n s' := by
  have h' : Sys2Proof.core.step s = .next s' := h
  simp only [run, Host.Core.run, h']
  rfl

/-- Runs compose. -/
theorem run_add {m n : Nat} {s s' : State} (h : run m s = .next s') : run (m + n) s = run n s' := by
  induction m generalizing s with
  | zero =>
    cases h
    rw [Nat.zero_add]
  | succ m ih =>
    obtain ⟨s1, h1, h2⟩ := run_succ_next h
    rw [Nat.add_right_comm, run_succ_of_step h1, ih h2]

/-- What every step keeps, every run keeps. -/
theorem run_keeps {P : State → Prop} (hstep : ∀ s t, P s → step s = .next t → P t) {n : Nat} {s t : State} (hs : P s)
    (h : run n s = .next t) : P t := by
  induction n generalizing s with
  | zero =>
    cases h
    exact hs
  | succ n ih =>
    obtain ⟨s1, h1, h2⟩ := run_succ_next h
    exact ih (hstep s s1 hs h1) h2

end Sys2Proof.Machine
end

