-- ==== Sys2Proof/Tests/Slice0.lean ====
section
/-! SUPPORT. Tests, their expected values from spec/95_test_vectors.md or worked by hand from the rules named. -/

namespace Sys2Proof.Tests

open Sys2Proof Sys2Proof.Machine

/-- The state an answer goes on in; `s` where it stops. -/
def goneTo (s : State) : Result → State
  | .next t => t
  | .fault _ => s
  | .refused _ => s

/-- The state after reset with the port busy. -/
def busyWith (i : Instr) (k : Nat) : State := State.reset.setHost (.busy i k [])

/-- The state after reset with these turns listed. -/
def withTurns (ts : List Turn) : State := State.reset.setTurns ts

/-! ### WellFormed -/

theorem test_wellFormed_refuses_offset_384 : (Instr.rdcell 0 384).wellFormed = false := by decide
theorem test_wellFormed_allows_offset_383 : (Instr.rdcell 3 383).wellFormed = true := by decide

/-! ### Decoding: words written out from the formats R91 to R94 -/

-- op 0001, twenty zeros, v = 01011010
theorem test_decode_fill : decode 0b00010000000000000000000001011010 = .ok (.fill 0x5A) := by decide
-- op 0010, 000000, x = 010001, 00, y = 010110, 00000, c = 101
theorem test_decode_setpx : decode 0b00100000000100010001011000000101 = .ok (.setpx 17 22 5) := by decide
-- op 0011, 0000, r = 10000000, g = 01111111, bl = 11111111
theorem test_decode_encc : decode 0b00110000100000000111111111111111 = .ok (.encc 0x80 0x7F 0xFF) := by decide
-- op 0100, ten zeros, bk = 10, 0000000, off = 011001000
theorem test_decode_rdcell : decode 0b01000000000000100000000011001000 = .ok (.rdcell 2 200) := by decide
-- E3, E6, E10, E12 to E16, E18
theorem test_decode_reserved :
    decode 0x10000100 = .error (.mustBeZero 1) ∧ decode 0x20400000 = .error (.mustBeZero 2) ∧
    decode 0x31000000 = .error (.mustBeZero 3) ∧ decode 0x40000200 = .error (.mustBeZero 4) ∧
    decode 0x40000180 = .error (.offsetRange 384) ∧ decode 0x400001FF = .error (.offsetRange 511) ∧
    decode 0 = .error (.opcode 0) ∧ decode 0xFFFFFFFF = .error (.opcode 15) := by decide
-- A12, A17, F6: the words the spec prints
theorem test_encode : encode (.setpx 31 37 0) = 0x201F2500 ∧ encode (.setpx 63 63 5) = 0x203F3F05 ∧
    encode (.rdcell 2 200) = 0x400200C8 ∧ encode (.encc 0x12 0xC0 0x34) = 0x3012C034 := by decide
theorem test_decodeTableWord : decodeTableWord 32 0x4003017F = some (.rdcell 3 383) ∧
    decodeTableWord 32 0x40000180 = none := by decide

/-! ### The assembler (R101, R102) -/

theorem test_assemble_in_range : assembleLine (.fill 255) = .ok (some (.fill 0xFF)) ∧
    assembleLine (.setpx 63 63 7) = .ok (some (.setpx 63 63 7)) ∧
    assembleLine (.encc 255 255 255) = .ok (some (.encc 0xFF 0xFF 0xFF)) ∧
    assembleLine (.rdcell 3 383) = .ok (some (.rdcell 3 383)) := by decide
theorem test_assemble_out_of_range : assembleLine (.fill 256) = .error (.outOfRange 256) ∧
    assembleLine (.setpx 64 0 0) = .error (.outOfRange 64) ∧ assembleLine (.setpx 0 0 8) = .error (.outOfRange 8) ∧
    assembleLine (.encc 0 256 0) = .error (.outOfRange 256) ∧
    assembleLine (.rdcell 0 384) = .error (.outOfRange 384) ∧ assembleLine (.rdcell 4 0) = .error (.outOfRange 4) := by
  decide
-- P2, line 2
theorem test_assemble_setrgb : assembleLine (.setrgb 63 63 255 0 255) = .ok (some (.setpx 63 63 5)) := by decide
-- 'RDCELL 3, 0x17F' and '<tick>'
theorem test_parse_rdcell :
    parseLine ['R', 'D', 'C', 'E', 'L', 'L', ' ', '3', ',', ' ', '0', 'x', '1', '7', 'F'] = .ok (.rdcell 3 383) := by
  decide
theorem test_parse_tick_and_bad : parseLine ['<', 't', 'i', 'c', 'k', '>'] = .ok .tick ∧
    parseLine ['F', 'I', 'L', 'L', ' ', '1', ',', '2'] = .error .badLine := by decide
-- log 18: spaces at the ends and around an operand are skipped, a space inside a number or a mnemonic is no line
theorem test_parse_spaces :
    parseLine [' ', 'E', 'N', 'C', 'C', ' ', ' ', '1', ' ', ',', '2', ',', ' ', '3', ' '] = .ok (.encc 1 2 3) ∧
    parseLine ['F', 'I', 'L', 'L', ' ', '1', ' ', '2'] = .error .badLine ∧
    parseLine ['C', ' ', 'L', 'E', 'A', 'R'] = .error .badLine := by decide

/-! ### Address functions: A10, A12, A15, A17, and the inverse map V2 to V5 -/

theorem test_planeOffset : (planeOffset 17 22 0, planeOffset 17 22 2) = (105, 137) ∧ planeOffset 31 37 1 = 175 ∧
    planeOffset 56 60 0 = 344 ∧ planeOffset 63 63 2 = 383 := by decide
theorem test_bank_and_group : (bankOf 22, rowGroup 22) = (2, 2) ∧ (bankOf 37, rowGroup 37) = (1, 4) ∧
    (bankOf 63, rowGroup 63) = (3, 7) := by decide
theorem test_pixelOf : pixelOf 0 56 0 = ⟨8, 4, 0⟩ ∧ pixelOf 1 100 2 = ⟨20, 17, 0⟩ ∧ pixelOf 2 200 5 = ⟨32, 46, 0⟩ ∧
    pixelOf 3 383 7 = ⟨63, 63, 2⟩ := by decide
-- R155: x = 64 leaves the bank, x = 256 aliases to 0
theorem test_source_offset_of_wide_x : offset 64 0 = 384 ∧ offset 256 0 = 0 := by decide
-- S5, S6 with the masks 0x01 and 0x02
theorem test_planeUpdate : planeUpdate true 0x01 0xA5 = 0xA5 ∧ planeUpdate false 0x01 0xA5 = 0xA4 ∧
    planeUpdate false 0x02 0xA5 = 0xA5 ∧ planeUpdate true 0x02 0xA5 = 0xA7 := by decide
-- with LM = id, the default of the type
theorem test_maskOf : maskOf {} 37 = 0x10 := by decide

/-! ### Commands, one micro-step each -/

-- C7, C9
theorem test_encc_threshold : (goneTo State.reset (exec (.encc 0x80 0x7F 0xFF) State.reset)).resp = 0x05 := by decide
theorem test_encc_green : (goneTo State.reset (exec (.encc 0x12 0xC0 0x34) State.reset)).resp = 0x02 := by decide
-- R43, R120
theorem test_fill_accept : (goneTo State.reset (exec (.fill 0x5A) State.reset)).host = .busy (.fill 0x5A) 0 [] := by decide
theorem test_fill_last_step_frees_the_port :
    (goneTo State.reset (exec (.fill 0x5A) (busyWith (.fill 0x5A) 1535))).host = .ready := by decide
-- F5, L1-1: cell (3, 383) has address 1535
theorem test_rdcell_reads_the_top_cell :
    (goneTo State.reset (exec (.rdcell 3 383) ((busyWith (.rdcell 3 383) 0).setFb [(1535, 0x81)]))).resp = 0x81 := by decide
theorem test_rdcell_reserved_offset : (goneTo State.reset (exec (.rdcell 0 384) State.reset)).refused = true := by decide
-- R146: plane 1 is not the last, plane 2 is
theorem test_setpx_progress :
    (goneTo State.reset (exec (.setpx 5 2 7) (busyWith (.setpx 5 2 7) 1))).host = .busy (.setpx 5 2 7) 2 [] ∧
    (goneTo State.reset (exec (.setpx 5 2 7) (busyWith (.setpx 5 2 7) 2))).host = .ready := by decide
-- S7: SETPX 20, 20, 5, plane 1 (green off) at address 124 clears the mask LM[2], plane 0 at 108 sets it
theorem test_setpx_cells :
    (goneTo State.reset (exec (.setpx 20 20 5) ((busyWith (.setpx 20 20 5) 0).setFb [(108, 0xA5)]))).cell 108 =
      0xA5 ||| Config.lineMap.mask[2] ∧
    (goneTo State.reset (exec (.setpx 20 20 5) ((busyWith (.setpx 20 20 5) 1).setFb [(124, 0xA5)]))).cell 124 =
      0xA5 &&& ~~~Config.lineMap.mask[2] := by
  constructor <;> exact Memory.read_write_same _ _ _

/-! ### The scan and the panel -/

-- R174: bank 2, cell 5 is address 773
theorem test_scan_data : (scanTurn (((State.reset.setFsm (.data 5)).setBank 2).setFb [(773, 0x3C)])).out.data = 0x3C := by
  decide
theorem test_scan_after_last_cell : (scanTurn (State.reset.setFsm (.clkHi 383))).fsm = .blank ∧
    (scanTurn (State.reset.setFsm (.clkHi 382))).fsm = .data 383 := by decide
theorem test_scan_address : ((scanTurn ((State.reset.setFsm .addr).setBank 2)).out.a1,
    (scanTurn ((State.reset.setFsm .addr).setBank 2)).out.a0) = (true, false) := by decide
theorem test_scan_advance_wraps : (scanTurn ((State.reset.setFsm .advance).setBank 3)).bank = 0 := by decide
theorem test_scan_heart : (scanTurn (State.reset.setFsm .heart)).out.hb = true ∧
    (scanTurn (State.reset.setFsm .heart)).fsm = .idle := by decide
-- T5
theorem test_tick_in_a_cycle : acceptTick (State.reset.setFsm (.data 7)) = State.reset.setFsm (.data 7) := rfl
-- R206: line 0 takes data bit 0 in at stage 0 and drops its last stage
theorem test_shift : (shiftIn (Vector.replicate 8 (BitVec.twoPow 384 383 ||| 1)) 0x02)[0] = 2 ∧
    (shiftIn (Vector.replicate 8 1) 0x02)[1] = 3 := by decide
-- R207, R208
theorem test_latch_and_blank :
    (Panel.observe ⟨Vector.replicate 8 5, Vector.replicate 8 0⟩ Lines.reset { Lines.reset with lat := true }).lt =
      Vector.replicate 8 5 ∧ displayedRowPair State.reset = none := by decide

/-! ### Steps -/

-- E1 and X1, placed where the next step takes them
theorem test_step_runs_the_word : (goneTo State.reset (step (State.reset.withFetchWord 32 0x1000005A))).host =
    .busy (.fill 0x5A) 0 [] := by decide
theorem test_step_refuses_a_reserved_word : (goneTo State.reset (step (State.reset.withFetchWord 32 0))).refused = true ∧
    (goneTo State.reset (step (State.reset.withFetchWord 32 0))).host = .ready := by decide
-- P1, the first two lines and a tick
theorem test_listing_inputs : (lineInputs .clear).toOption.map Prod.fst = some [0x10000000] ∧
    (lineInputs (.encc 255 0 0)).toOption = some ([0x30FF0000], [.host]) ∧
    (lineInputs .tick).toOption.map Prod.fst = some [] := by decide

end Sys2Proof.Tests
end

