-- ==== Sys2Proof/Tests/Witnesses.lean ====
section
/-! SUPPORT. For each statement with hypotheses, a state and operands that meet all of them together, clause by clause at a
boundary value where the statement has several. -/

namespace Sys2Proof.Tests

open Sys2Proof Sys2Proof.Machine

/-- After reset, waiting to take the word `w`. -/
def taking (w : CommandWord) : State := State.reset.withNextWord w

/-! ### Encoding -/

theorem witness_DecodeOfEncodeIsTheCommand : (Instr.rdcell 3 383).wellFormed = true := by decide
theorem witness_EncodeOfDecodeIsTheWord : decode 0x4003017F = .ok (.rdcell 3 383) := by decide
theorem witness_DecodedWordMatchesItsTableRow : decode 0x203F3F07 = .ok (.setpx 63 63 7) := by decide
theorem witness_AssembledWordsAreTheSyntaxTables : (255 < 256 ∧ ¬ 256 < 256) ∧
    ((63 < 64 ∧ 63 < 64 ∧ 7 < 8) ∧ ¬ (64 < 64 ∧ 0 < 64 ∧ 0 < 8)) ∧ ((3 < 4 ∧ 383 < 384) ∧ ¬ (3 < 4 ∧ 384 < 384)) := by
  decide
theorem witness_PseudoInstructionsExpand : (255 : Nat) < 256 ∧ 128 < 256 ∧ 127 < 256 := by decide

/-! ### The step and the port -/

theorem witness_StepRunsTheDecodedCommand : (taking 0x1000005A).takeTurn.1 = .host ∧ (taking 0x1000005A).host = .ready ∧
    (taking 0x1000005A).commands = 0x1000005A :: [] ∧ decode 0x1000005A = .ok (.fill 0x5A) :=
  ⟨rfl, rfl, rfl, by decide⟩

theorem witness_StepContinuesTheCommandInProgress :
    ((busyWith (.setpx 5 2 7) 1).setTurns [.host]).takeTurn.1 = .host ∧
    ((busyWith (.setpx 5 2 7) 1).setTurns [.host]).host = .busy (.setpx 5 2 7) 1 [] := ⟨rfl, rfl⟩

theorem witness_StepRunsTheFetchWord : decodeTableWord 32 0x4003017F = some (.rdcell 3 383) := by decide

theorem witness_PortAcceptsOnlyWhenReady :
    (∃ s t : State, s.host = .busy (.rdcell 0 0) 0 [] ∧ step s = .next t) ∧
    (State.reset.host = .ready ∧ (Instr.rdcell 3 383).wellFormed = true ∧ 0 < microSteps (.rdcell 3 383)) ∧
    ((busyWith (.setpx 5 2 7) 2).HostInv ∧ (busyWith (.setpx 5 2 7) 2).host = .busy (.setpx 5 2 7) 2 [] ∧
      2 + 1 = microSteps (.setpx 5 2 7)) ∧
    ((taking 0x40000180).takeTurn.1 = .host ∧ (taking 0x40000180).host = .ready ∧
      (taking 0x40000180).commands = 0x40000180 :: [] ∧ decode 0x40000180 = .error (.offsetRange 384)) :=
  ⟨⟨(busyWith (.rdcell 0 0) 0).setTurns [.host], _, rfl, rfl⟩, ⟨rfl, by decide, by decide⟩,
    ⟨⟨rfl, by decide, rfl⟩, rfl, rfl⟩, ⟨rfl, rfl, rfl, by decide⟩⟩

theorem witness_OtherCommandWaitsWhileBusy :
    (busyWith (.fill 0) 0).host = .busy (.fill 0) 0 [] ∧ Instr.fill 0 ≠ Instr.fill 1 := ⟨rfl, by decide⟩

theorem witness_CommandStopsExactlyOnProgressTheSpecLacks :
    (∃ written, (busyWith (.fill 0) 1536).host = .busy (.fill 0) 1536 written ∧ microSteps (.fill 0) ≤ 1536) ∧
    (∃ written, (busyWith (.rdcell 0 384) 0).host = .busy (.rdcell 0 384) 0 written ∧
      (Instr.rdcell 0 384).wellFormed = false) ∧
    ∃ t, exec (.fill 0) State.reset = .next t :=
  ⟨⟨[], rfl, by decide⟩, ⟨[], rfl, by decide⟩, ⟨_, rfl⟩⟩

theorem witness_ReservedWordSetsTheStickyMark :
    ((taking 0x40000180).takeTurn.1 = .host ∧ (taking 0x40000180).host = .ready ∧
      (taking 0x40000180).commands = 0x40000180 :: [] ∧ decode 0x40000180 = .error (.offsetRange 384)) ∧
    ∃ t, ((taking 0).setRefused true).refused = true ∧ step ((taking 0).setRefused true) = .next t :=
  ⟨⟨rfl, rfl, rfl, by decide⟩, ⟨_, rfl, rfl⟩⟩

theorem witness_MarkIsSetOnlyByAReservedWord :
    ∃ t, step (taking 0) = .next t ∧ (taking 0).refused = false ∧ t.refused = true := ⟨_, rfl, rfl, rfl⟩

/-! ### FILL -/

/-- Every cell but FILL_ORDER's last one, in rising order: the cells written when one micro-step is left. -/
def allButLast : List Nat := (List.range 1536).filter fun a => decide (fillCell 1535 ≠ some a)

/-- A frame store in which every cell holds `v`. -/
def filled (v : Byte) : Memory := (List.range 1536).foldl (fun m a => m.write a v) []

theorem read_foldl_write (v : Byte) (as : List Nat) (m : Memory) (a : Nat) :
    (as.foldl (fun m a => m.write a v) m).read a = if a ∈ as then v else m.read a := by
  induction as generalizing m with
  | nil => simp
  | cons b rest ih =>
    simp only [List.foldl_cons, ih, Memory.read_write, List.mem_cons]
    by_cases h : a ∈ rest
    · simp [h]
    · by_cases hb : b = a
      · simp [hb]
      · simp [h, hb, Ne.symm hb]

theorem wf_foldl_write (v : Byte) (as : List Nat) (m : Memory) (hm : m.wf = true) (h : ∀ a ∈ as, a < 1536) :
    (as.foldl (fun m a => m.write a v) m).wf = true := by
  induction as generalizing m with
  | nil => exact hm
  | cons b rest ih =>
    exact ih _ (Memory.wf_write v hm (h b (List.mem_cons_self ..))) fun a ha => h a (List.mem_cons_of_mem b ha)

/-- FILL v with its last micro-step left, that step's turn next. -/
def lastFillStep (v : Byte) : State :=
  ((State.reset.setFb (filled v)).setHost (.busy (.fill v) 1535 allButLast)).setTurns [.host]

theorem writtenBy_allButLast : writtenBy 1535 allButLast := by
  refine ⟨(List.pairwise_lt_range (n := 1536)).filter _, fun a => ?_⟩
  simp only [allButLast, List.mem_filter, List.mem_range, decide_eq_true_eq]
  constructor
  · rintro ⟨ha, hne⟩
    obtain ⟨k, hk, hka⟩ := fillCell_surj ha
    refine ⟨k, ?_, hka⟩
    have : k ≠ 1535 := fun h => hne (h ▸ hka)
    omega
  · rintro ⟨j, hj, hja⟩
    refine ⟨fillCell_lt hja, fun h => ?_⟩
    have := fillCell_inj hja h
    omega

theorem hostInv_of_fill {s : State} {v : Byte} {k : Nat} {written : List Nat} (h : s.host = .busy (.fill v) k written)
    (hk : k < 1536) (hw : writtenBy k written) (hv : ∀ a ∈ written, s.cell a = v) : s.HostInv := by
  rw [State.HostInv, h]
  exact And.intro hk (And.intro hw hv)

theorem filled_wf (v : Byte) : (filled v).wf = true := by
  unfold filled
  exact wf_foldl_write v (List.range 1536) [] rfl fun a => List.mem_range.1

theorem read_filled (v : Byte) {a : Nat} (ha : a ∈ allButLast) : (filled v).read a = v := by
  unfold allButLast at ha
  unfold filled
  rw [read_foldl_write, if_pos (List.mem_of_mem_filter ha)]

theorem lastFillStep_inv (v : Byte) : (lastFillStep v).Inv := by
  have hb : 1535 < 1536 := by omega
  have hwf := filled_wf v
  have hread := fun a => @read_filled v a
  have hwritten := writtenBy_allButLast
  unfold lastFillStep
  generalize filled v = m at *
  generalize allButLast = written at *
  generalize 1535 = k at *
  exact And.intro hwf (And.intro (hostInv_of_fill rfl hb hwritten hread)
    ⟨rfl, rfl, (fun h : true = false => by cases h), (fun h : true = false => by cases h)⟩)

theorem witness_FillOverwritesEveryCell : State.reset.host = .ready ∧ (1535 : Nat) < 1536 ∧
    (busyWith (.fill 0xFF) 1535).host = .busy (.fill 0xFF) 1535 [] := ⟨rfl, by decide, rfl⟩

theorem witness_FillHoldsUnderEveryInterleaving : ∃ t,
    (lastFillStep 0x5A).Inv ∧ (lastFillStep 0x5A).host = .busy (.fill 0x5A) 1535 allButLast ∧
    (lastFillStep 0x5A).commands = [] ∧ run 1 (lastFillStep 0x5A) = .next t ∧ t.host = .ready :=
  ⟨_, lastFillStep_inv 0x5A, rfl, rfl, rfl, rfl⟩

/-! ### RDCELL, ENCC, SETPX -/

theorem witness_RdcellReadsOneCell : (383#9).toNat < 384 ∧ State.reset.host = .ready ∧
    (busyWith (.rdcell 3 383) 0).host = .busy (.rdcell 3 383) 0 [] := ⟨by decide, rfl, rfl⟩

theorem witness_RdcellOfNoCellIsRefused : 384 ≤ (384#9).toNat ∧ State.reset.host = .ready := ⟨by decide, rfl⟩

theorem witness_EnccEncodesTheColour : State.reset.host = .ready := rfl

theorem witness_SetpxUpdatesItsPlanes : State.reset.host = .ready ∧
    ∃ m, (busyWith (.setpx 63 63 7) 2).host = .busy (.setpx 63 63 7) 2 [] ∧ 2 < 3 ∧
      (384 * 3 + 383 = 384 * ((63#6).toNat &&& 3) +
        (((63#6).toNat &&& 7) + ((63#6).toNat &&& 0xF8) * 6 + ((63#6).toNat &&& 4) * 2) + 16 * 2) ∧
      Config.lineMap.mask[((63#6).toNat &&& 0x3F) >>> 3]? = some m :=
  ⟨rfl, Config.lineMap.mask[7], rfl, by decide, by decide, by simp⟩

theorem witness_SetpxCompletes : State.reset.host = .ready := rfl

theorem witness_SetpxColourReadsBack :
    State.reset.host = .ready ∧ ∃ l : Fin 8, maskOf Config.lineMap 63 = BitVec.twoPow 8 l.val :=
  ⟨rfl, Config.lineMap.oneHot (rowGroup 63)⟩

theorem witness_LastSetpxOfAPixelWins : State.reset.host = .ready ∧ State.reset.fb.wf = true := ⟨rfl, rfl⟩

theorem witness_SetpxKeepsOtherPixels : State.reset.host = .ready ∧ ((0 : Coord), (0 : Coord)) ≠ (0, 8) ∧
    ∃ l : Fin 8, maskOf Config.lineMap 8 = BitVec.twoPow 8 l.val :=
  ⟨rfl, by decide, Config.lineMap.oneHot (rowGroup 8)⟩

/-! ### Frames -/

theorem witness_StoringCommandsFrame :
    (∃ t a, exec (.fill 1) (busyWith (.fill 1) 0) = .next t ∧ (busyWith (.fill 1) 0).host = .busy (.fill 1) 0 [] ∧
      fillCell 0 = some a) ∧
    (∃ t, exec (.setpx 63 63 7) (busyWith (.setpx 63 63 7) 2) = .next t ∧
      (busyWith (.setpx 63 63 7) 2).host = .busy (.setpx 63 63 7) 2 [] ∧ planeCell 63 63 2 = some 1535) ∧
    (∃ t, exec (.fill 1) State.reset = .next t) ∧ ∃ t, exec (.setpx 0 0 1) State.reset = .next t :=
  ⟨⟨_, _, rfl, rfl, rfl⟩, ⟨_, rfl, rfl, by decide⟩, ⟨_, rfl⟩, ⟨_, rfl⟩⟩

theorem witness_NonStoringCommandsFrame :
    (∃ t, exec (.encc 1 2 3) State.reset = .next t) ∧
    (∃ t, exec (.rdcell 3 383) State.reset = .next t ∧ (383#9).toNat < 384) ∧
    ∃ t, exec (.rdcell 3 383) (busyWith (.rdcell 3 383) 0) = .next t := ⟨⟨_, rfl⟩, ⟨_, rfl, by decide⟩, ⟨_, rfl⟩⟩

theorem witness_OnlyEnccAndRdcellWriteResp :
    ∃ t, step (taking 0x30FF0000) = .next t ∧ t.resp ≠ (taking 0x30FF0000).resp := ⟨_, rfl, by decide⟩

/-! ### Layout -/

theorem witness_InverseMapFindsThePixel : ∃ l : Fin 8, Config.lineMap.mask[(7 : Fin 8)] = BitVec.twoPow 8 l.val :=
  Config.lineMap.oneHot 7

/-! ### The scan engine -/

theorem witness_TickStartsACycle : (withTurns [.tick]).takeTurn.1 = .tick ∧ (withTurns [.tick]).fsm = .idle ∧
    (withTurns [.tick]).out.lat = false := ⟨rfl, rfl, rfl⟩

theorem witness_TurnsWithNothingToDoChangeNothing :
    (((withTurns [.tick]).setFsm .heart).takeTurn.1 = .tick ∧ ((withTurns [.tick]).setFsm .heart).fsm ≠ .idle) ∧
    ((withTurns [.scan]).takeTurn.1 = .scan ∧ (withTurns [.scan]).fsm = .idle) := ⟨⟨rfl, by decide⟩, ⟨rfl, rfl⟩⟩

theorem witness_ScanStreamsACell : (withTurns [.scan]).takeTurn.1 = .scan ∧
    ((withTurns [.scan]).setFsm (.data 383)).fsm = .data 383 ∧
    ((withTurns [.scan]).setFsm (.clkLo 383)).fsm = .clkLo 383 ∧
    ((withTurns [.scan]).setFsm (.clkHi 383)).fsm = .clkHi 383 := ⟨rfl, rfl, rfl, rfl⟩

theorem witness_ScanHousekeeping : ∀ f : Fsm, ((withTurns [.scan]).setFsm f).takeTurn.1 = .scan ∧
    ((withTurns [.scan]).setFsm f).fsm = f := fun _ => ⟨rfl, rfl⟩

theorem witness_OnlyAdvanceWritesTheBank : ((withTurns [.scan]).setFsm .advance).takeTurn.1 = .scan ∧
    ((withTurns [.scan]).setFsm .advance).fsm = .advance ∧ ∃ t, step ((withTurns [.scan]).setFsm .advance) = .next t ∧ t.bank ≠ ((withTurns [.scan]).setFsm .advance).bank :=
  ⟨rfl, rfl, _, rfl, by decide⟩

/-- After reset in phase `f`, with the lines of that phase, a scan turn next. -/
def inPhase (f : Fsm) (o : Lines) (b : Bank) : State :=
  (((withTurns [.scan]).setFsm f).setOut o).setBank b

theorem witness_LinesChangeOnlyInTheirPhases :
    (∃ t, step ((inPhase (.data 0) Lines.reset 0).setFb [(0, 1)]) = .next t ∧
      t.out.data ≠ ((inPhase (.data 0) Lines.reset 0).setFb [(0, 1)]).out.data) ∧
    (∃ t, step (inPhase (.clkLo 0) Lines.reset 0) = .next t ∧ t.out.clk ≠ (inPhase (.clkLo 0) Lines.reset 0).out.clk) ∧
    (∃ t, step (inPhase .latHi Lines.reset 0) = .next t ∧ t.out.lat ≠ (inPhase .latHi Lines.reset 0).out.lat) ∧
    (∃ t, step (inPhase .unblank Lines.reset 0) = .next t ∧
      t.out.blank ≠ (inPhase .unblank Lines.reset 0).out.blank) ∧
    (∃ t, step (inPhase .addr Lines.reset 3) = .next t ∧ t.out.address ≠ (inPhase .addr Lines.reset 3).out.address) ∧
    ∃ t, step (inPhase .heart Lines.reset 0) = .next t ∧ t.out.hb ≠ (inPhase .heart Lines.reset 0).out.hb :=
  ⟨⟨_, rfl, by decide⟩, ⟨_, rfl, by decide⟩, ⟨_, rfl, by decide⟩, ⟨_, rfl, by decide⟩, ⟨_, rfl, by decide⟩,
    ⟨_, rfl, by decide⟩⟩

/-- A panel whose registers and latches agree. -/
def evenPanel : Panel := ⟨Vector.replicate 8 0, Vector.replicate 8 0⟩

theorem witness_LineChangesKeepTheOrder :
    (∃ t, (inPhase .addr Lines.reset 3).Inv ∧ step (inPhase .addr Lines.reset 3) = .next t ∧
      t.out.address ≠ (inPhase .addr Lines.reset 3).out.address) ∧
    (∃ t, (inPhase .latHi Lines.reset 0).Inv ∧ step (inPhase .latHi Lines.reset 0) = .next t ∧
      (inPhase .latHi Lines.reset 0).out.lat = false ∧ t.out.lat = true) ∧
    ∃ t, ((inPhase .unblank Lines.reset 0).setPanel evenPanel).Inv ∧
      step ((inPhase .unblank Lines.reset 0).setPanel evenPanel) = .next t ∧
      ((inPhase .unblank Lines.reset 0).setPanel evenPanel).out.blank = true ∧ t.out.blank = false :=
  ⟨⟨_, ⟨rfl, trivial, rfl, rfl, rfl⟩, rfl, by decide⟩, ⟨_, ⟨rfl, trivial, rfl, rfl, rfl, by decide⟩, rfl, rfl, rfl⟩,
    ⟨_, ⟨rfl, trivial, rfl, rfl, rfl, by decide, rfl⟩, rfl, rfl, rfl⟩⟩

theorem witness_UndisturbedCycle : (withTurns cycleTurns).fsm = .idle ∧ (withTurns cycleTurns).turns = cycleTurns ++ [] :=
  ⟨rfl, (List.append_nil _).symm⟩

theorem witness_PanelHoldsTheStreamedBank :
    (withTurns cycleTurns).fsm = .idle ∧ (withTurns cycleTurns).turns = cycleTurns ++ [] := witness_UndisturbedCycle

theorem reset_inv : State.reset.Inv :=
  ⟨rfl, trivial, rfl, rfl, (fun h : true = false => by cases h), (fun h : true = false => by cases h)⟩

theorem witness_CycleUnderEveryInterleaving :
    (withTurns (.host :: cycleTurns)).Inv ∧ (withTurns (.host :: cycleTurns)).fsm = .idle ∧
    (withTurns (.host :: cycleTurns)).turns = (.host :: cycleTurns) ++ [] ∧
    (Turn.host :: cycleTurns).filter (fun u => decide (u ≠ .host)) = cycleTurns :=
  ⟨reset_inv, rfl, (List.append_nil _).symm, by
    rw [List.filter_cons_of_neg (by decide), List.filter_eq_self]
    intro u hu
    rcases List.mem_cons.1 hu with rfl | hu
    · decide
    · rw [List.eq_of_mem_replicate hu]
      decide⟩

theorem witness_BankRoundRobin : (withTurns (List.replicate 2 cycleTurns).flatten).fsm = .idle ∧
    (withTurns (List.replicate 2 cycleTurns).flatten).turns = (List.replicate 2 cycleTurns).flatten ++ [] :=
  ⟨rfl, (List.append_nil _).symm⟩

/-! ### The output stage -/

theorem witness_PanelShiftsAndLatches :
    (∃ t, step (inPhase (.clkHi 0) { Lines.reset with clk := false } 0) = .next t ∧ t.out.clk = true ∧
      t.out.lat = false) ∧
    ∃ t, step (inPhase .latHi Lines.reset 0) = .next t ∧ t.out.lat = true := ⟨⟨_, rfl, rfl, rfl⟩, ⟨_, rfl, rfl⟩⟩

theorem witness_CycleDisplaysThePixelsOfItsBank :
    ((withTurns cycleTurns).setBank 3).fsm = .idle ∧ ((withTurns cycleTurns).setBank 3).turns = cycleTurns ++ [] ∧
    bankOf 63 = ((withTurns cycleTurns).setBank 3).bank ∧
    (∃ l : Fin 8, maskOf Config.lineMap 63 = BitVec.twoPow 8 l.val) ∧
    (0 : Fin 384).val = 383 - planeOffset 63 63 2 ∧ (0 : Bank) ≠ ((withTurns cycleTurns).setBank 3).bank :=
  ⟨rfl, (List.append_nil _).symm, (by decide : bankOf 63 = 3), Config.lineMap.oneHot (rowGroup 63), by decide,
    (by decide : (0 : Bank) ≠ 3)⟩

/-! ### Whose state is whose -/

theorem witness_ScanNeverWritesTheHostSide :
    ∃ t, step (inPhase (.data 0) Lines.reset 0) = .next t ∧ (inPhase (.data 0) Lines.reset 0).takeTurn.1 ≠ .host :=
  ⟨_, rfl, by decide⟩

theorem witness_HostNeverWritesTheScanSide :
    ∃ t, step (taking 0x1000005A) = .next t ∧ (taking 0x1000005A).takeTurn.1 = .host := ⟨_, rfl, rfl⟩

theorem witness_HostResultsDoNotDependOnTheScan : ∃ t t',
    (withTurns [.host]).sameHostSide (withTurns [.tick, .host]) ∧ (withTurns [.host]).turns = [.host] ++ [] ∧
    (withTurns [.tick, .host]).turns = [.tick, .host] ++ [] ∧
    [Turn.host].count .host = [Turn.tick, Turn.host].count .host ∧
    run [Turn.host].length (withTurns [.host]) = .next t ∧
    run [Turn.tick, Turn.host].length (withTurns [.tick, .host]) = .next t' :=
  ⟨_, _, ⟨rfl, rfl, rfl, rfl, rfl⟩, rfl, rfl, by decide, rfl, rfl⟩

/-! ### Invariants and progress -/

theorem witness_StepKeepsTheInvariant : ∃ t, (withTurns [.tick]).Inv ∧ step (withTurns [.tick]) = .next t :=
  ⟨_, reset_inv, rfl⟩

theorem witness_InvariantStatesNeverStop : (lastFillStep 0x5A).Inv := lastFillStep_inv 0x5A

theorem witness_StepKeepsTheMemoryForm : ∃ t, (withTurns [.tick]).fb.wf = true ∧ step (withTurns [.tick]) = .next t :=
  ⟨_, rfl, rfl⟩

theorem witness_ListedTickStartsACycle : (withTurns [.scan, .tick]).Inv ∧ (withTurns [.scan, .tick]).fsm = .idle ∧
    Turn.tick ∈ (withTurns [.scan, .tick]).turns := ⟨reset_inv, rfl, (by decide : Turn.tick ∈ [Turn.scan, Turn.tick])⟩

theorem witness_IdleScanEngineStartsACycle : State.reset.Inv ∧ State.reset.fsm = .idle := ⟨reset_inv, rfl⟩

theorem witness_CommandInProgressCompletes :
    ((busyWith (.setpx 0 0 1) 1).setTurns [.host, .tick, .host]).Inv ∧
    ((busyWith (.setpx 0 0 1) 1).setTurns [.host, .tick, .host]).host = .busy (.setpx 0 0 1) 1 [] ∧
    microSteps (.setpx 0 0 1) ≤ 1 + ((busyWith (.setpx 0 0 1) 1).setTurns [.host, .tick, .host]).turns.count .host :=
  ⟨⟨rfl, ⟨rfl, by decide, rfl⟩, reset_inv.2.2⟩, rfl, (by decide : 3 ≤ 1 + [Turn.host, .tick, .host].count .host)⟩

end Sys2Proof.Tests
end

/-! SUPPORT. What commands, turns and steps keep and change, and the statements of spec/10_state.md settled from it. -/

namespace Sys2Proof.Machine

/-! ### The decoder and the operands -/

/-- What decodes is a well-formed command: RDCELL's offset was checked (R97 (c)). -/
theorem decode_wellFormed {w : CommandWord} {i : Instr} (h : decode w = .ok i) : i.wellFormed = true := by
  simp only [decode, decodeFill, decodeSetpx, decodeEncc, decodeRdcell] at h
  split_ifs at h <;> cases h <;> simp_all [Instr.wellFormed]

/-- The table's bits give the command their word decodes to. -/
theorem decodeTableWord_eq_some {nbits w : Nat} {i : Instr} :
    decodeTableWord nbits w = some i ↔ decode (tableWord nbits w) = .ok i := by
  unfold decodeTableWord
  cases decode (tableWord nbits w) <;> simp [Except.toOption]

/-! ### The port's progress -/

theorem writtenBy_zero : writtenBy 0 [] := ⟨List.Pairwise.nil, by simp⟩

/-- FILL's next write adds the next cell of `FILL_ORDER` to the cells written (R120). -/
theorem writtenBy_succ {k a : Nat} {written : List Nat} (h : writtenBy k written) (ha : fillCell k = some a) :
    writtenBy (k + 1) (insertCell a written) := by
  obtain ⟨hsorted, hmem⟩ := h
  refine ⟨pairwise_insertCell a hsorted, fun b => ?_⟩
  rw [mem_insertCell, hmem]
  constructor
  · rintro (rfl | ⟨j, hj, hjb⟩)
    · exact ⟨k, k.lt_succ_self, ha⟩
    · exact ⟨j, by omega, hjb⟩
  · rintro ⟨j, hj, hjb⟩
    rcases Nat.lt_succ_iff_lt_or_eq.1 hj with hlt | rfl
    · exact .inr ⟨j, hlt, hjb⟩
    · exact .inl (Option.some.inj (hjb.symm.trans ha))

theorem hostInv_of_ready {s : State} (h : s.host = .ready) : s.HostInv := by
  rw [State.HostInv, h]
  trivial

theorem hostInv_iff_of_fill {s : State} {v : Byte} {k : Nat} {written : List Nat}
    (h : s.host = .busy (.fill v) k written) :
    s.HostInv ↔ k < 1536 ∧ writtenBy k written ∧ ∀ a ∈ written, s.cell a = v := by
  rw [State.HostInv, h]

theorem hostInv_iff_of_busy {s : State} {i : Instr} {k : Nat} {written : List Nat} (h : s.host = .busy i k written)
    (hi : ∀ v, i ≠ .fill v) : s.HostInv ↔ i.wellFormed = true ∧ k < microSteps i ∧ written = [] := by
  rw [State.HostInv, h]
  cases i with
  | fill v => exact absurd rfl (hi v)
  | setpx x y c => exact Iff.rfl
  | encc r g bl => exact Iff.rfl
  | rdcell bk off => exact Iff.rfl

/-- The port's invariant reads the port's progress and the frame store only. -/
theorem State.HostInv.congr {s t : State} (h : s.HostInv) (hhost : t.host = s.host) (hfb : t.fb = s.fb) : t.HostInv := by
  have hcell : ∀ a, t.cell a = s.cell a := fun a => congrArg (·.read a) hfb
  simpa only [State.HostInv, hhost, hcell] using h

/-- A command in progress is well-formed and has a micro-step left. -/
theorem State.HostInv.busy {s : State} (h : s.HostInv) {i : Instr} {k : Nat} {written : List Nat}
    (hb : s.host = .busy i k written) : i.wellFormed = true ∧ k < microSteps i := by
  by_cases hi : ∃ v, i = .fill v
  · obtain ⟨v, rfl⟩ := hi
    exact ⟨rfl, ((hostInv_iff_of_fill hb).1 h).1⟩
  · obtain ⟨hwf, hk, -⟩ := (hostInv_iff_of_busy hb fun v hv => hi ⟨v, hv⟩).1 h
    exact ⟨hwf, hk⟩

theorem portAfter_last {i : Instr} {k : Nat} (h : k + 1 = microSteps i) (written : List Nat) :
    portAfter i k written = .ready := if_pos h

theorem portAfter_more {i : Instr} {k : Nat} (h : k + 1 ≠ microSteps i) (written : List Nat) :
    portAfter i k written = .busy i (k + 1) written := if_neg h

/-! ### Commands: what every meaning keeps -/

/-- No command touches the scan engine's state, the panel or the environment's inputs. -/
theorem exec_sameElsewhere {i : Instr} {s t : State} (h : exec i s = .next t) : s.sameElsewhere t := by
  cases i with
  | fill v =>
    obtain ⟨-, rfl⟩ | ⟨k, written, a, -, -, rfl⟩ | ⟨j, k, written, -, -, rfl⟩ := execFill_next h <;>
      simp [State.sameElsewhere, State.sameScanSide]
  | setpx x y c =>
    obtain ⟨-, rfl⟩ | ⟨k, written, a, -, -, -, rfl⟩ | ⟨j, k, written, -, -, rfl⟩ := execSetpx_next h <;>
      simp [State.sameElsewhere, State.sameScanSide]
  | encc r g bl =>
    obtain ⟨-, rfl⟩ | ⟨j, k, written, -, -, rfl⟩ := execEncc_next h <;>
      simp [State.sameElsewhere, State.sameScanSide]
  | rdcell bk off =>
    obtain ⟨-, -, rfl⟩ | ⟨-, -, rfl⟩ | ⟨written, -, -, rfl⟩ | ⟨j, k, written, -, -, rfl⟩ := execRdcell_next h <;>
      simp [State.sameElsewhere, State.sameScanSide]

/-- No command changes the refusal mark, an RDCELL of no cell at a ready port apart (log 8). -/
theorem exec_refused {i : Instr} {s t : State} (h : exec i s = .next t) (hi : s.host = .ready → i.wellFormed = true) :
    t.refused = s.refused := by
  cases i with
  | fill v => obtain ⟨-, rfl⟩ | ⟨k, written, a, -, -, rfl⟩ | ⟨j, k, written, -, -, rfl⟩ := execFill_next h <;> rfl
  | setpx x y c =>
    obtain ⟨-, rfl⟩ | ⟨k, written, a, -, -, -, rfl⟩ | ⟨j, k, written, -, -, rfl⟩ := execSetpx_next h <;> rfl
  | encc r g bl => obtain ⟨-, rfl⟩ | ⟨j, k, written, -, -, rfl⟩ := execEncc_next h <;> rfl
  | rdcell bk off =>
    obtain ⟨-, -, rfl⟩ | ⟨hr, ho, -⟩ | ⟨written, -, -, rfl⟩ | ⟨j, k, written, -, -, rfl⟩ := execRdcell_next h
    · rfl
    · exact absurd (by simpa [Instr.wellFormed] using hi hr) ho
    · rfl
    · rfl

/-- RESP changes only by ENCC's acceptance or by RDCELL's read (R38). -/
theorem exec_resp {i : Instr} {s t : State} (h : exec i s = .next t) :
    t.resp = s.resp ∨ (s.host = .ready ∧ ∃ r g bl, i = .encc r g bl) ∨
      ∃ bk off written, s.host = .busy (.rdcell bk off) 0 written := by
  cases i with
  | fill v =>
    obtain ⟨-, rfl⟩ | ⟨k, written, a, -, -, rfl⟩ | ⟨j, k, written, -, -, rfl⟩ := execFill_next h <;> exact .inl rfl
  | setpx x y c =>
    obtain ⟨-, rfl⟩ | ⟨k, written, a, -, -, -, rfl⟩ | ⟨j, k, written, -, -, rfl⟩ := execSetpx_next h <;> exact .inl rfl
  | encc r g bl =>
    obtain ⟨hr, -⟩ | ⟨j, k, written, -, -, rfl⟩ := execEncc_next h
    · exact .inr (.inl ⟨hr, r, g, bl, rfl⟩)
    · exact .inl rfl
  | rdcell bk off =>
    obtain ⟨-, -, rfl⟩ | ⟨-, -, rfl⟩ | ⟨written, hb, -, -⟩ | ⟨j, k, written, -, -, rfl⟩ := execRdcell_next h
    · exact .inl rfl
    · exact .inl rfl
    · exact .inr (.inr ⟨bk, off, written, hb⟩)
    · exact .inl rfl

/-- Every command keeps the frame store in canonical form: FILL and SETPX write inside it (R68). -/
theorem exec_wf {i : Instr} {s t : State} (hs : s.fb.wf = true) (h : exec i s = .next t) : t.fb.wf = true := by
  cases i with
  | fill v =>
    obtain ⟨-, rfl⟩ | ⟨k, written, a, -, ha, rfl⟩ | ⟨j, k, written, -, -, rfl⟩ := execFill_next h
    · exact hs
    · exact Memory.wf_write _ hs (fillCell_lt ha)
    · exact hs
  | setpx x y c =>
    obtain ⟨-, rfl⟩ | ⟨k, written, a, -, -, ha, rfl⟩ | ⟨j, k, written, -, -, rfl⟩ := execSetpx_next h
    · exact hs
    · exact Memory.wf_write _ hs (planeCell_lt ha)
    · exact hs
  | encc r g bl => obtain ⟨-, rfl⟩ | ⟨j, k, written, -, -, rfl⟩ := execEncc_next h <;> exact hs
  | rdcell bk off =>
    obtain ⟨-, -, rfl⟩ | ⟨-, -, rfl⟩ | ⟨written, -, -, rfl⟩ | ⟨j, k, written, -, -, rfl⟩ := execRdcell_next h <;>
      exact hs

/-! ### Commands: the port's progress -/

/-- FILL keeps the port's invariant: the cell just written holds `v`, and so do the cells written before it (R120). -/
theorem execFill_hostInv {v : Byte} {s t : State} (hs : s.HostInv) (h : exec (.fill v) s = .next t) : t.HostInv := by
  obtain ⟨-, rfl⟩ | ⟨k, written, a, hb, ha, rfl⟩ | ⟨j, k, written, -, -, rfl⟩ := execFill_next h
  · exact (hostInv_iff_of_fill (State.setHost_host ..)).2 ⟨by omega, writtenBy_zero, by simp⟩
  · obtain ⟨hk, hw, hv⟩ := (hostInv_iff_of_fill hb).1 hs
    by_cases hl : k + 1 = microSteps (.fill v)
    · exact hostInv_of_ready (portAfter_last hl _)
    · refine (hostInv_iff_of_fill (portAfter_more hl _)).2
        ⟨by simp only [microSteps] at hl; omega, writtenBy_succ hw ha, fun b hmem => ?_⟩
      rw [State.cell_setHost, State.cell_writeCell]
      split
      · rfl
      · exact hv b (((mem_insertCell a b written).1 hmem).resolve_left (Ne.symm ‹_›))
  · exact hs

/-- The port of a SETPX or an RDCELL after a micro-step that was not past the last. -/
theorem hostInv_of_portAfter {t : State} {i : Instr} {k : Nat} (ht : t.host = portAfter i k [])
    (hi : ∀ v, i ≠ .fill v) (hwf : i.wellFormed = true) (hk : k < microSteps i) : t.HostInv := by
  by_cases hl : k + 1 = microSteps i
  · exact hostInv_of_ready (ht.trans (portAfter_last hl _))
  · exact (hostInv_iff_of_busy (ht.trans (portAfter_more hl _)) hi).2 ⟨hwf, by omega, rfl⟩

/-- Every command keeps the port's invariant. -/
theorem exec_hostInv {i : Instr} {s t : State} (hs : s.HostInv) (h : exec i s = .next t) : t.HostInv := by
  cases i with
  | fill v => exact execFill_hostInv hs h
  | setpx x y c =>
    obtain ⟨-, rfl⟩ | ⟨k, written, a, -, hk, -, rfl⟩ | ⟨j, k, written, -, -, rfl⟩ := execSetpx_next h
    · exact (hostInv_iff_of_busy (State.setHost_host ..) (by simp)).2 ⟨rfl, by simp [microSteps], rfl⟩
    · exact hostInv_of_portAfter (State.setHost_host ..) (by simp) rfl hk
    · exact hs
  | encc r g bl =>
    obtain ⟨hr, rfl⟩ | ⟨j, k, written, -, -, rfl⟩ := execEncc_next h
    · exact hostInv_of_ready hr
    · exact hs
  | rdcell bk off =>
    obtain ⟨-, ho, rfl⟩ | ⟨-, -, rfl⟩ | ⟨written, -, -, rfl⟩ | ⟨j, k, written, -, -, rfl⟩ := execRdcell_next h
    · exact (hostInv_iff_of_busy (State.setHost_host ..) (by simp)).2 ⟨decide_eq_true ho, by simp [microSteps], rfl⟩
    · exact hostInv_of_ready rfl
    · exact hostInv_of_ready rfl
    · exact hs

/-- A ready port accepts a well-formed command that has micro-steps (R43). -/
theorem exec_accept {i : Instr} {s : State} (hr : s.host = .ready) (hwf : i.wellFormed = true) (hm : 0 < microSteps i) :
    exec i s = .next (s.setHost (.busy i 0 [])) := by
  cases i with
  | fill v => exact runCommand_ready hr
  | setpx x y c => exact runCommand_ready hr
  | encc r g bl => exact absurd hm (Nat.lt_irrefl 0)
  | rdcell bk off => exact (runCommand_ready hr).trans (if_pos hwf)

/-- ENCC completes in its acceptance (R140). -/
theorem exec_encc_ready {r g bl : Byte} {s : State} (hr : s.host = .ready) :
    exec (.encc r g bl) s = enccAccept r g bl s :=
  runCommand_ready (mic := fun k _ _ => .fault (.noMicroStep k)) hr

theorem fillStep_of_cell {v : Byte} {k a : Nat} {written : List Nat} (s : State) (ha : fillCell k = some a) :
    fillStep v k written s = .next ((s.writeCell a v).setHost (portAfter (.fill v) k (insertCell a written))) := by
  simp only [fillStep, ha]

theorem setpxStep_of_lt {x y : Coord} {c : Colour} {k : Nat} (s : State) (hk : k < 3) :
    setpxStep x y c k s = .next ((s.rmwCell (cellIndex (bankOf y) (planeOffset x y k))
      (planeUpdate (c.getLsbD k) (maskOf Config.lineMap y))).setHost (portAfter (.setpx x y c) k [])) := by
  simp only [setpxStep, planeCell_eq x y hk, hk, if_true]

theorem rdcellStep_zero {bk : Bank} {off : OffsetField} (s : State) (ho : off.toNat < 384) :
    rdcellStep bk off 0 s =
      .next ((s.setResp (s.cell (cellIndex bk off.toNat))).setHost (portAfter (.rdcell bk off) 0 [])) := by
  simp only [rdcellStep, cellAddr_eq_some.2 ⟨ho, rfl⟩, if_true]

/-- A command in progress with a micro-step left does it, and the port moves on (R43). -/
theorem exec_busy {i : Instr} {s : State} {k : Nat} {written : List Nat} (hb : s.host = .busy i k written)
    (hwf : i.wellFormed = true) (hk : k < microSteps i) :
    ∃ t written', exec i s = .next t ∧ t.host = portAfter i k written' := by
  cases i with
  | fill v =>
    obtain ⟨a, ha⟩ := Option.isSome_iff_exists.1 (fillCell_isSome.2 hk)
    exact ⟨_, _, (runCommand_busy hb).trans (fillStep_of_cell s ha), rfl⟩
  | setpx x y c => exact ⟨_, _, (runCommand_busy hb).trans (setpxStep_of_lt s hk), rfl⟩
  | encc r g bl => exact absurd hk (Nat.not_lt_zero k)
  | rdcell bk off =>
    obtain rfl : k = 0 := Nat.lt_one_iff.1 hk
    exact ⟨_, [], (runCommand_busy hb).trans (rdcellStep_zero s (of_decide_eq_true hwf)), rfl⟩

/-! ### Host turns -/

theorem hostTurn_of_busy {s : State} {i : Instr} {k : Nat} {written : List Nat} (h : s.host = .busy i k written) :
    hostTurn s = exec i s := by simp [hostTurn, h]

theorem hostTurn_of_word {s : State} {w : CommandWord} {rest : List CommandWord} (hr : s.host = .ready)
    (hc : s.commands = w :: rest) : hostTurn s = presentWord w (s.setCommands rest) := by
  simp [hostTurn, hr, State.takeWord_cons hc]

theorem presentWord_of_ok {w : CommandWord} {i : Instr} (h : decode w = .ok i) (s : State) :
    presentWord w s = exec i s := by simp [presentWord, h]

theorem presentWord_of_error {w : CommandWord} {r : Reserved} (h : decode w = .error r) (s : State) :
    presentWord w s = .next (refuseWord s) := by simp [presentWord, h]

/-- A host turn, by what it runs: nothing, the command of the word taken, the refusal of the word taken, or the command in
progress. -/
theorem hostTurn_cases {s t : State} (h : hostTurn s = .next t) :
    (s.host = .ready ∧ s.commands = [] ∧ t = s) ∨
    (∃ w rest i, s.host = .ready ∧ s.commands = w :: rest ∧ decode w = .ok i ∧ exec i (s.setCommands rest) = .next t) ∨
    (∃ w rest r, s.host = .ready ∧ s.commands = w :: rest ∧ decode w = .error r ∧
      t = refuseWord (s.setCommands rest)) ∨
    (∃ i k written, s.host = .busy i k written ∧ exec i s = .next t) := by
  obtain hn | ⟨w, rest, hr, hc, hp⟩ | hb := hostTurn_next h
  · exact .inl hn
  · obtain ⟨i, hd, he⟩ | ⟨r, hd, rfl⟩ := presentWord_next hp
    · exact .inr (.inl ⟨w, rest, i, hr, hc, hd, he⟩)
    · exact .inr (.inr (.inl ⟨w, rest, r, hr, hc, hd, rfl⟩))
  · exact .inr (.inr (.inr hb))

/-- A host turn touches neither the scan engine's state nor the panel (R37, R238). -/
theorem hostTurn_scanSide {s t : State} (h : hostTurn s = .next t) : s.sameScanSide t ∧ t.panel = s.panel := by
  obtain ⟨-, -, rfl⟩ | ⟨w, rest, i, -, -, -, he⟩ | ⟨w, rest, r, -, -, -, rfl⟩ | ⟨i, k, written, -, he⟩ :=
    hostTurn_cases h
  · exact ⟨⟨rfl, rfl, rfl⟩, rfl⟩
  · obtain ⟨hscan, hpanel, -⟩ := exec_sameElsewhere he
    exact ⟨hscan, hpanel⟩
  · exact ⟨⟨rfl, rfl, rfl⟩, rfl⟩
  · obtain ⟨hscan, hpanel, -⟩ := exec_sameElsewhere he
    exact ⟨hscan, hpanel⟩

/-- A host turn keeps the canonical form of the frame store. -/
theorem hostTurn_wf {s t : State} (hs : s.fb.wf = true) (h : hostTurn s = .next t) : t.fb.wf = true := by
  obtain ⟨-, -, rfl⟩ | ⟨w, rest, i, -, -, -, he⟩ | ⟨w, rest, r, -, -, -, rfl⟩ | ⟨i, k, written, -, he⟩ :=
    hostTurn_cases h
  · exact hs
  · exact exec_wf (s := s.setCommands rest) hs he
  · exact hs
  · exact exec_wf hs he

/-- A host turn keeps the port's invariant. -/
theorem hostTurn_hostInv {s t : State} (hs : s.HostInv) (h : hostTurn s = .next t) : t.HostInv := by
  obtain ⟨-, -, rfl⟩ | ⟨w, rest, i, hr, -, -, he⟩ | ⟨w, rest, r, -, -, -, rfl⟩ | ⟨i, k, written, -, he⟩ :=
    hostTurn_cases h
  · exact hs
  · exact exec_hostInv (s := s.setCommands rest) (hostInv_of_ready hr) he
  · exact hostInv_of_ready rfl
  · exact exec_hostInv hs he

/-- The refusal mark is changed only by a reserved word that a ready port takes (R232). -/
theorem hostTurn_refused {s t : State} (h : hostTurn s = .next t) :
    t.refused = s.refused ∨ (s.host = .ready ∧ ∃ w rest r, s.commands = w :: rest ∧ decode w = .error r) := by
  obtain ⟨-, -, rfl⟩ | ⟨w, rest, i, -, -, hd, he⟩ | ⟨w, rest, r, hr, hc, hd, -⟩ | ⟨i, k, written, hb, he⟩ :=
    hostTurn_cases h
  · exact .inl rfl
  · exact .inl (exec_refused (s := s.setCommands rest) he fun _ => decode_wellFormed hd)
  · exact .inr ⟨hr, w, rest, r, hc, hd⟩
  · exact .inl (exec_refused he fun hr => by simp [hb] at hr)

/-- RESP is changed only by the acceptance of an ENCC word or by RDCELL's read (R38). -/
theorem hostTurn_resp {s t : State} (h : hostTurn s = .next t) :
    t.resp = s.resp ∨
    (∃ w rest r g bl, s.host = .ready ∧ s.commands = w :: rest ∧ decode w = .ok (.encc r g bl)) ∨
    ∃ bk off written, s.host = .busy (.rdcell bk off) 0 written := by
  obtain ⟨-, -, rfl⟩ | ⟨w, rest, i, hr, hc, hd, he⟩ | ⟨w, rest, r, -, -, -, rfl⟩ | ⟨i, k, written, hb, he⟩ :=
    hostTurn_cases h
  · exact .inl rfl
  · obtain hkept | ⟨-, r, g, bl, rfl⟩ | hread := exec_resp he
    · exact .inl hkept
    · exact .inr (.inl ⟨w, rest, r, g, bl, hr, hc, hd⟩)
    · exact .inr (.inr hread)
  · exact .inl rfl
  · obtain hkept | ⟨hr, -⟩ | hread := exec_resp he
    · exact .inl hkept
    · simp [hb] at hr
    · exact .inr (.inr hread)

/-! ### Scan turns -/

section ScanPhases

variable (s : State) (i : Fin 384)

@[simp] theorem scanData_out : (scanData i s).out = { s.out with data := s.cell (cellIndex s.bank i.val) } := rfl
@[simp] theorem scanData_bank : (scanData i s).bank = s.bank := rfl
@[simp] theorem scanData_fsm : (scanData i s).fsm = .clkLo i := rfl
@[simp] theorem scanClkLo_out : (scanClkLo i s).out = { s.out with clk := false } := rfl
@[simp] theorem scanClkLo_bank : (scanClkLo i s).bank = s.bank := rfl
@[simp] theorem scanClkLo_fsm : (scanClkLo i s).fsm = .clkHi i := rfl
@[simp] theorem scanClkHi_out : (scanClkHi i s).out = { s.out with clk := true } := rfl
@[simp] theorem scanClkHi_bank : (scanClkHi i s).bank = s.bank := rfl
@[simp] theorem scanClkHi_fsm : (scanClkHi i s).fsm = afterCell i := rfl
@[simp] theorem scanBlank_out : (scanBlank s).out = { s.out with blank := true } := rfl
@[simp] theorem scanBlank_bank : (scanBlank s).bank = s.bank := rfl
@[simp] theorem scanBlank_fsm : (scanBlank s).fsm = .addr := rfl
@[simp] theorem scanAddr_out :
    (scanAddr s).out = { s.out with a0 := s.bank.getLsbD 0, a1 := s.bank.getLsbD 1 } := rfl
@[simp] theorem scanAddr_bank : (scanAddr s).bank = s.bank := rfl
@[simp] theorem scanAddr_fsm : (scanAddr s).fsm = .latHi := rfl
@[simp] theorem scanLatHi_out : (scanLatHi s).out = { s.out with lat := true } := rfl
@[simp] theorem scanLatHi_bank : (scanLatHi s).bank = s.bank := rfl
@[simp] theorem scanLatHi_fsm : (scanLatHi s).fsm = .latLo := rfl
@[simp] theorem scanLatLo_out : (scanLatLo s).out = { s.out with lat := false } := rfl
@[simp] theorem scanLatLo_bank : (scanLatLo s).bank = s.bank := rfl
@[simp] theorem scanLatLo_fsm : (scanLatLo s).fsm = .unblank := rfl
@[simp] theorem scanUnblank_out : (scanUnblank s).out = { s.out with blank := false } := rfl
@[simp] theorem scanUnblank_bank : (scanUnblank s).bank = s.bank := rfl
@[simp] theorem scanUnblank_fsm : (scanUnblank s).fsm = .advance := rfl
@[simp] theorem scanAdvance_out : (scanAdvance s).out = s.out := rfl
@[simp] theorem scanAdvance_bank : (scanAdvance s).bank = s.bank + 1 := rfl
@[simp] theorem scanAdvance_fsm : (scanAdvance s).fsm = .heart := rfl
@[simp] theorem scanHeart_out : (scanHeart s).out = { s.out with hb := !s.out.hb } := rfl
@[simp] theorem scanHeart_bank : (scanHeart s).bank = s.bank := rfl
@[simp] theorem scanHeart_fsm : (scanHeart s).fsm = .idle := rfl

/-- After a cell comes the next cell, or BLANK after the last (R176). -/
theorem afterCell_cases : afterCell i = .blank ∨ ∃ j, afterCell i = .data j := by
  unfold afterCell
  split
  · exact .inr ⟨_, rfl⟩
  · exact .inl rfl

end ScanPhases

/-- Each line is changed by a scan turn only in the phases R37 names as its writer. -/
theorem scanTurn_out_changes (s : State) :
    ((scanTurn s).out.data ≠ s.out.data → ∃ i, s.fsm = .data i) ∧
    ((scanTurn s).out.clk ≠ s.out.clk → ∃ i, s.fsm = .clkLo i ∨ s.fsm = .clkHi i) ∧
    ((scanTurn s).out.lat ≠ s.out.lat → s.fsm = .latHi ∨ s.fsm = .latLo) ∧
    ((scanTurn s).out.blank ≠ s.out.blank → s.fsm = .blank ∨ s.fsm = .unblank) ∧
    ((scanTurn s).out.address ≠ s.out.address → s.fsm = .addr) ∧
    ((scanTurn s).out.hb ≠ s.out.hb → s.fsm = .heart) := by
  cases hf : s.fsm <;> simp [scanTurn, hf, Lines.address]

/-! ### The panel's reaction -/

@[simp] theorem Panel.observe_sr (p : Panel) (o o' : Lines) :
    (p.observe o o').sr = if !o.clk && o'.clk then shiftIn p.sr o'.data else p.sr := rfl

@[simp] theorem Panel.observe_lt (p : Panel) (o o' : Lines) :
    (p.observe o o').lt = if o'.lat then (p.observe o o').sr else p.lt := rfl

/-- The panel reacts to the lines, which the taking of a turn does not change. -/
theorem observeLines_takeTurn (s t : State) : observeLines s.takeTurn.2 t = observeLines s t := by
  simp [observeLines]

theorem withPanel_congr {s s' : State} (hp : s'.panel = s.panel) (ho : s'.out = s.out) (r : Result) :
    withPanel s' r = withPanel s r := by
  cases r <;> simp [withPanel, observeLines, hp, ho]

/-! ### The lines -/

/-- The address lines written from a bank select it (R178, R202). -/
theorem address_of_bits {o : Lines} {b : Bank} (h0 : o.a0 = b[0]) (h1 : o.a1 = b[1]) : o.address = b := by
  have h : ∀ b : Bank, (BitVec.ofBool b[1] ++ BitVec.ofBool b[0] : BitVec 2) = b := by decide
  rw [Lines.address, h0, h1, h b]

theorem scanAddr_address (s : State) : (scanAddr s).out.address = s.bank := address_of_bits rfl rfl

/-- A turn that changes nothing of the scan side or the panel keeps the lines' invariant; while `lat` is 1 the latches are
loaded with what they hold (R207). -/
theorem State.LinesInv.of_sameScanSide {s t : State} (h : s.LinesInv) (hscan : s.sameScanSide t) :
    (observeLines s t).LinesInv := by
  obtain ⟨hbank, hout, hfsm⟩ := hscan
  unfold State.LinesInv State.ShowsLastBank at *
  cases hf : s.fsm <;> simp_all

/-- A tick keeps the lines' invariant: the levels of IDLE are those of DATA(0) (R171). -/
theorem acceptTick_linesInv {s : State} (h : s.LinesInv) : (observeLines s (acceptTick s)).LinesInv := by
  by_cases hf : s.fsm = .idle
  · simp_all [State.LinesInv, State.ShowsLastBank, acceptTick_idle]
  · rw [acceptTick_busy hf]
    exact h.of_sameScanSide ⟨rfl, rfl, rfl⟩

/-- Each phase of the scan hands the next one the levels it expects (R184, R188). -/
theorem scanTurn_linesInv {s : State} (h : s.LinesInv) : (observeLines s (scanTurn s)).LinesInv := by
  cases hf : s.fsm with
  | clkHi i =>
    obtain ha | ⟨j, ha⟩ := afterCell_cases i <;>
      simp_all [State.LinesInv, State.ShowsLastBank, scanTurn, Lines.address]
  | addr =>
    have haddr := scanAddr_address s
    simp_all [State.LinesInv, scanTurn]
  | _ => simp_all [State.LinesInv, State.ShowsLastBank, scanTurn, Lines.address]

/-! ### The invariant -/

/-- Taking a turn keeps the invariant: it is about nothing of the environment's. -/
theorem State.Inv.takeTurn {s : State} (h : s.Inv) : s.takeTurn.2.Inv := by
  obtain ⟨hwf, hhost, hlines⟩ := h
  refine ⟨by simpa using hwf, hhost.congr (by simp) (by simp), ?_⟩
  simpa [State.LinesInv, State.ShowsLastBank] using hlines

/-- Every agent's turn, with the panel's reaction, keeps the invariant. -/
theorem agentTurn_inv {u : Turn} {s t : State} (hs : s.Inv) (h : agentTurn u s = .next t) : (observeLines s t).Inv := by
  obtain ⟨hwf, hhost, hlines⟩ := hs
  cases u with
  | host =>
    replace h : hostTurn s = .next t := h
    exact ⟨hostTurn_wf (t := t) hwf h, (hostTurn_hostInv hhost h).congr rfl rfl,
      hlines.of_sameScanSide (hostTurn_scanSide h).1⟩
  | scan =>
    cases h
    exact ⟨by simpa using hwf, hhost.congr (by simp) (by simp), scanTurn_linesInv hlines⟩
  | tick =>
    cases h
    exact ⟨by simpa using hwf, hhost.congr (by simp) (by simp), acceptTick_linesInv hlines⟩


/-! ### The commands waiting -/

/-- A step of a busy port takes no word (R43). -/
theorem step_commands_of_busy {s t : State} {i : Instr} {k : Nat} {written : List Nat}
    (hb : s.host = .busy i k written) (h : step s = .next t) : t.commands = s.commands := by
  obtain ⟨-, t', ht, rfl⟩ | ⟨-, rfl⟩ | ⟨-, rfl⟩ := step_next_cases h
  · rw [hostTurn_of_busy (by simpa using hb)] at ht
    obtain ⟨-, -, hcommands, -⟩ := exec_sameElsewhere ht
    simpa using hcommands
  · simp
  · simp

/-! ### The step at a host turn -/

theorem step_of_host {s : State} (hu : s.takeTurn.1 = .host) : step s = withPanel s (hostTurn s.takeTurn.2) := by
  simp [step, hu, agentTurn]

/-- At a host turn a ready port takes the next word (R43). -/
theorem step_of_word {s : State} {w : CommandWord} {rest : List CommandWord} (hu : s.takeTurn.1 = .host)
    (hr : s.host = .ready) (hc : s.commands = w :: rest) :
    step s = withPanel s (presentWord w (s.takeTurn.2.setCommands rest)) := by
  rw [step_of_host hu, hostTurn_of_word (by simpa using hr) (by simpa using hc)]

/-! ### A command in progress, to its end -/

/-- One listed turn while a command is in progress: a host turn moves the port on, any other leaves it (R43, R70). -/
theorem step_of_busy {s : State} {i : Instr} {k : Nat} {written : List Nat} {u : Turn} {rest : List Turn} (hs : s.Inv)
    (hb : s.host = .busy i k written) (hu : s.turns = u :: rest) :
    ∃ t, step s = .next t ∧ t.turns = rest ∧
      ((u = .host ∧ ∃ written', t.host = portAfter i k written') ∨ (u ≠ .host ∧ t.host = s.host)) := by
  have htake : s.takeTurn = (u, s.setTurns rest) := State.takeTurn_cons hu
  obtain ⟨hwf, hk⟩ := hs.2.1.busy hb
  cases u with
  | host =>
    obtain ⟨t, written', ht, hport⟩ := exec_busy (s := s.setTurns rest) hb hwf hk
    have hturn : agentTurn s.takeTurn.1 s.takeTurn.2 = .next t := by
      rw [htake]
      exact (hostTurn_of_busy (s := s.setTurns rest) hb).trans ht
    obtain ⟨-, -, -, hturns, -⟩ := exec_sameElsewhere ht
    exact ⟨_, step_of_turn hturn, hturns, .inl ⟨rfl, written', hport⟩⟩
  | scan => exact ⟨_, step_of_turn (by rw [htake]; rfl), by simp, .inr ⟨by simp, by simp⟩⟩
  | tick => exact ⟨_, step_of_turn (by rw [htake]; rfl), by simp, .inr ⟨by simp, by simp⟩⟩

end Sys2Proof.Machine

/-! ### The obligations -/

namespace Sys2Proof

open Machine

/-- Settles O52: each agent's turn keeps the frame store's form, the port's progress and the lines' levels. -/
theorem stepKeepsTheInvariant : Obligations.StepKeepsTheInvariant := by
  intro s t hs h
  obtain ⟨t', h', rfl⟩ := step_next h
  rw [← observeLines_takeTurn]
  exact agentTurn_inv hs.takeTurn h'

/-- Settles O57, by induction on the listed turns: a host turn leaves one micro-step less, every other turn as many. -/
theorem commandInProgressCompletes : Obligations.CommandInProgressCompletes := by
  intro s i k written hs hb hcount
  generalize hl : s.turns = turns at hcount ⊢
  induction turns generalizing s k written with
  | nil =>
    have hk := (hs.2.1.busy hb).2
    simp at hcount
    omega
  | cons u rest ih =>
    obtain ⟨s₁, hstep, hturns, hport⟩ := step_of_busy hs hb hl
    have hinv := stepKeepsTheInvariant s s₁ hs hstep
    have hcommands := step_commands_of_busy hb hstep
    by_cases hready : s₁.host = .ready
    · exact ⟨1, s₁, by simp, run_succ_of_step hstep, hready, hcommands⟩
    obtain ⟨k₁, written₁, hb₁, hcount₁⟩ :
        ∃ k₁ written₁, s₁.host = .busy i k₁ written₁ ∧ microSteps i ≤ k₁ + rest.count .host := by
      obtain ⟨rfl, written', hport⟩ | ⟨hne, hport⟩ := hport
      · have hmore : k + 1 ≠ microSteps i := fun hl => hready (hport.trans (portAfter_last hl _))
        rw [List.count_cons_self] at hcount
        exact ⟨k + 1, written', hport.trans (portAfter_more hmore _), by omega⟩
      · rw [List.count_cons_of_ne hne] at hcount
        exact ⟨k, written, hport.trans hb, hcount⟩
    obtain ⟨n, t, hn, hrun, ht, hc⟩ := ih s₁ k₁ written₁ hinv hb₁ hturns hcount₁
    exact ⟨n + 1, t, by simpa using hn, (run_succ_of_step hstep).trans hrun, ht, hc.trans hcommands⟩

/-- Settles O11, clause by clause from the laws of `exec` at a ready and at a busy port. -/
theorem portAcceptsOnlyWhenReady : Obligations.PortAcceptsOnlyWhenReady := by
  refine ⟨fun s t i k written hb h => step_commands_of_busy hb h, fun i s hr hwf hm => exec_accept hr hwf hm, ?_, ?_, ?_⟩
  · intro i s k written hs hb hlast
    obtain ⟨hwf, hk⟩ := hs.busy hb
    obtain ⟨t, written', ht, hport⟩ := exec_busy hb hwf hk
    exact ⟨t, ht, hport.trans (portAfter_last hlast _)⟩
  · exact fun r g bl s hr => ⟨_, exec_encc_ready hr, rfl⟩
  · intro s w rest r hu hr hc hd
    exact ⟨_, by rw [step_of_word hu hr hc, presentWord_of_error hd]; rfl, rfl, rfl⟩

/-- Settles O15: of the three kinds of step only a host turn touches the mark, and there only a reserved word. -/
theorem markIsSetOnlyByAReservedWord : Obligations.MarkIsSetOnlyByAReservedWord := by
  intro s t h hs ht
  obtain ⟨hu, t', h', rfl⟩ | ⟨-, rfl⟩ | ⟨-, rfl⟩ := step_next_cases h
  · obtain hkept | hword := hostTurn_refused h'
    · simp_all
    · exact ⟨hu, by simpa using hword⟩
  · simp_all
  · simp_all

/-- Settles O28: of the three kinds of step only a host turn touches RESP, and there only ENCC and RDCELL's read. -/
theorem onlyEnccAndRdcellWriteResp : Obligations.OnlyEnccAndRdcellWriteResp := by
  refine ⟨rfl, fun s t h hne => ?_⟩
  obtain ⟨hu, t', h', rfl⟩ | ⟨-, rfl⟩ | ⟨-, rfl⟩ := step_next_cases h
  · obtain hkept | hwriter := hostTurn_resp h'
    · simp_all
    · exact ⟨hu, by simpa using hwriter⟩
  · simp at hne
  · simp at hne

/-- Settles O37: host turns and ticks change no line, and a scan turn only those of its phase. -/
theorem linesChangeOnlyInTheirPhases : Obligations.LinesChangeOnlyInTheirPhases := by
  intro s t h
  obtain ⟨-, t', h', rfl⟩ | ⟨hu, rfl⟩ | ⟨-, rfl⟩ := step_next_cases h
  · obtain ⟨⟨-, hout, -⟩, -⟩ := hostTurn_scanSide h'
    simp [hout]
  · obtain ⟨hdata, hclk, hlat, hblank, haddress, hhb⟩ := scanTurn_out_changes s.takeTurn.2
    simp only [State.takeTurn_out, State.takeTurn_fsm] at hdata hclk hlat hblank haddress hhb
    exact ⟨hdata, hclk, hlat, hblank, haddress, hhb, fun _ => hu⟩
  · simp

/-- Settles O8: the word a ready port takes decodes, so `exec` runs it. -/
theorem stepRunsTheDecodedCommand : Obligations.StepRunsTheDecodedCommand := by
  intro s w rest i hu hr hc hd
  rw [step_of_word hu hr hc, presentWord_of_ok hd]

/-- Settles O9: a busy port does not look at the words. -/
theorem stepContinuesTheCommandInProgress : Obligations.StepContinuesTheCommandInProgress := by
  intro s i k written hu hb
  rw [step_of_host hu, hostTurn_of_busy (by simpa using hb)]

/-- Settles O10: the placed word is the next one of a ready port at a host turn. -/
theorem stepRunsTheFetchWord : Obligations.StepRunsTheFetchWord := by
  intro s nbits w i hd
  have hword : step (s.withFetchWord nbits w) = withPanel (s.withFetchWord nbits w)
      (presentWord (tableWord nbits w) (s.setHost .ready)) :=
    step_of_word (s := s.withNextWord (tableWord nbits w)) rfl rfl rfl
  rw [hword, presentWord_of_ok (decodeTableWord_eq_some.1 hd)]
  exact withPanel_congr rfl rfl _

/-- Settles O49: the values stand in the definition of the reset state. -/
theorem resetValues : Obligations.ResetValues := by
  refine ⟨?_, ?_, ?_, ?_, ?_, ?_, ?_, ?_, ?_, ?_, ?_, ?_⟩ <;> rfl

end Sys2Proof

/-! SUPPORT. Steps and the host's side of the state, and the statements of spec/20_memory.md settled from it. -/

namespace Sys2Proof.Machine

/-! ### Agreement on the host's side -/

namespace State.sameHostSide

variable {s s' : State}

theorem symm (h : s.sameHostSide s') : s'.sameHostSide s := by
  obtain ⟨hfb, hresp, hhost, hrefused, hcommands⟩ := h
  exact ⟨hfb.symm, hresp.symm, hhost.symm, hrefused.symm, hcommands.symm⟩

theorem trans {s'' : State} (h : s.sameHostSide s') (h' : s'.sameHostSide s'') : s.sameHostSide s'' := by
  obtain ⟨hfb, hresp, hhost, hrefused, hcommands⟩ := h
  obtain ⟨hfb', hresp', hhost', hrefused', hcommands'⟩ := h'
  exact ⟨hfb'.trans hfb, hresp'.trans hresp, hhost'.trans hhost, hrefused'.trans hrefused,
    hcommands'.trans hcommands⟩

theorem host_eq (h : s.sameHostSide s') {p : HostPort} (hp : s.host = p) : s'.host = p := by
  obtain ⟨-, -, hhost, -, -⟩ := h
  exact hhost.trans hp

theorem commands_eq (h : s.sameHostSide s') {ws : List CommandWord} (hw : s.commands = ws) : s'.commands = ws := by
  obtain ⟨-, -, -, -, hcommands⟩ := h
  exact hcommands.trans hw

theorem cell_eq (h : s.sameHostSide s') (a : Nat) : s'.cell a = s.cell a := by
  obtain ⟨hfb, -⟩ := h
  exact congrArg (·.read a) hfb

theorem setHost (h : s.sameHostSide s') (p : HostPort) : (s.setHost p).sameHostSide (s'.setHost p) := by
  obtain ⟨hfb, hresp, -, hrefused, hcommands⟩ := h
  exact ⟨hfb, hresp, rfl, hrefused, hcommands⟩

theorem setResp (h : s.sameHostSide s') (v : Byte) : (s.setResp v).sameHostSide (s'.setResp v) := by
  obtain ⟨hfb, -, hhost, hrefused, hcommands⟩ := h
  exact ⟨hfb, rfl, hhost, hrefused, hcommands⟩

theorem setCommands (h : s.sameHostSide s') (ws : List CommandWord) :
    (s.setCommands ws).sameHostSide (s'.setCommands ws) := by
  obtain ⟨hfb, hresp, hhost, hrefused, -⟩ := h
  exact ⟨hfb, hresp, hhost, hrefused, rfl⟩

theorem refuseWord (h : s.sameHostSide s') : (refuseWord s).sameHostSide (refuseWord s') := by
  obtain ⟨hfb, hresp, -, -, hcommands⟩ := h
  exact ⟨hfb, hresp, rfl, rfl, hcommands⟩

theorem writeCell (h : s.sameHostSide s') (a : Nat) (v : Byte) : (s.writeCell a v).sameHostSide (s'.writeCell a v) := by
  obtain ⟨hfb, hresp, hhost, hrefused, hcommands⟩ := h
  exact ⟨congrArg (·.write a v) hfb, hresp, hhost, hrefused, hcommands⟩

theorem rmwCell (h : s.sameHostSide s') (a : Nat) (f : Byte → Byte) :
    (s.rmwCell a f).sameHostSide (s'.rmwCell a f) := by
  rw [State.rmwCell, State.rmwCell, h.cell_eq a]
  exact h.writeCell a _

end State.sameHostSide

theorem State.setHost_self {s : State} {p : HostPort} (h : s.host = p) : s.setHost p = s := by simp [State.setHost, ← h]

/-- Taking a turn touches nothing of the host's side. -/
theorem State.sameHostSide_takeTurn (s : State) : s.sameHostSide s.takeTurn.2 := by simp [State.sameHostSide]

/-! ### The host's turns read and write the host's side only -/

/-- A port busy with another command lets the word wait (R39, R43, log 7). -/
theorem exec_waits {i j : Instr} {s : State} {k : Nat} {written : List Nat} (hb : s.host = .busy j k written)
    (hne : j ≠ i) : exec i s = .next s := by
  have hwait (acc : State → Result) (mic : Nat → List Nat → State → Result) : runCommand i acc mic s = .next s := by
    simp [runCommand, hb, hne]
  cases i with
  | fill v => exact hwait ..
  | setpx x y c => exact hwait ..
  | encc r g bl => exact hwait (enccAccept r g bl) fun k _ _ => .fault (.noMicroStep k)
  | rdcell bk off => exact hwait ..

/-- RDCELL of no cell is refused as its word is (log 8). -/
theorem exec_rdcell_refused {bk : Bank} {off : OffsetField} {s : State} (hr : s.host = .ready)
    (ho : ¬ off.toNat < 384) : exec (.rdcell bk off) s = .next (refuseWord s) :=
  (runCommand_ready hr).trans (if_neg (by simpa [Instr.wellFormed] using ho))

/-- States that agree on the host's side do the same micro-step of a command, and agree after it. -/
theorem exec_sameHostSide {i : Instr} {s s' t : State} (hs : s.sameHostSide s') (h : exec i s = .next t) :
    ∃ t', exec i s' = .next t' ∧ t.sameHostSide t' := by
  cases i with
  | fill v =>
    obtain ⟨hr, rfl⟩ | ⟨k, written, a, hb, ha, rfl⟩ | ⟨j, k, written, hb, hne, rfl⟩ := execFill_next h
    · exact ⟨_, runCommand_ready (hs.host_eq hr), hs.setHost _⟩
    · exact ⟨_, (runCommand_busy (hs.host_eq hb)).trans (fillStep_of_cell s' ha), (hs.writeCell a v).setHost _⟩
    · exact ⟨s', exec_waits (hs.host_eq hb) hne, hs⟩
  | setpx x y c =>
    obtain ⟨hr, rfl⟩ | ⟨k, written, a, hb, hk, ha, rfl⟩ | ⟨j, k, written, hb, hne, rfl⟩ := execSetpx_next h
    · exact ⟨_, runCommand_ready (hs.host_eq hr), hs.setHost _⟩
    · obtain rfl := Option.some.inj ((planeCell_eq x y hk).symm.trans ha)
      exact ⟨_, (runCommand_busy (hs.host_eq hb)).trans (setpxStep_of_lt s' hk), (hs.rmwCell _ _).setHost _⟩
    · exact ⟨s', exec_waits (hs.host_eq hb) hne, hs⟩
  | encc r g bl =>
    obtain ⟨hr, rfl⟩ | ⟨j, k, written, hb, hne, rfl⟩ := execEncc_next h
    · refine ⟨_, exec_encc_ready (hs.host_eq hr), ?_⟩
      rw [← State.setHost_self ((s.setResp_host _).trans hr)]
      exact (hs.setResp _).setHost .ready
    · exact ⟨s', exec_waits (hs.host_eq hb) hne, hs⟩
  | rdcell bk off =>
    obtain ⟨hr, ho, rfl⟩ | ⟨hr, ho, rfl⟩ | ⟨written, hb, ho, rfl⟩ | ⟨j, k, written, hb, hne, rfl⟩ := execRdcell_next h
    · exact ⟨_, exec_accept (hs.host_eq hr) (decide_eq_true ho) Nat.one_pos, hs.setHost _⟩
    · exact ⟨_, exec_rdcell_refused (hs.host_eq hr) ho, hs.refuseWord⟩
    · refine ⟨_, (runCommand_busy (hs.host_eq hb)).trans (rdcellStep_zero s' ho), ?_⟩
      rw [hs.cell_eq]
      exact (hs.setResp _).setHost _
    · exact ⟨s', exec_waits (hs.host_eq hb) hne, hs⟩

theorem hostTurn_of_noWord {s : State} (hr : s.host = .ready) (hc : s.commands = []) : hostTurn s = .next s := by
  simp [hostTurn, hr, State.takeWord, hc]

/-- States that agree on the host's side take the same host turn, and agree after it. -/
theorem hostTurn_sameHostSide {s s' t : State} (hs : s.sameHostSide s') (h : hostTurn s = .next t) :
    ∃ t', hostTurn s' = .next t' ∧ t.sameHostSide t' := by
  obtain ⟨hr, hc, rfl⟩ | ⟨w, rest, i, hr, hc, hd, he⟩ | ⟨w, rest, r, hr, hc, hd, rfl⟩ | ⟨i, k, written, hb, he⟩ :=
    hostTurn_cases h
  · exact ⟨s', hostTurn_of_noWord (hs.host_eq hr) (hs.commands_eq hc), hs⟩
  · rw [hostTurn_of_word (hs.host_eq hr) (hs.commands_eq hc), presentWord_of_ok hd]
    exact exec_sameHostSide (hs.setCommands rest) he
  · rw [hostTurn_of_word (hs.host_eq hr) (hs.commands_eq hc), presentWord_of_error hd]
    exact ⟨_, rfl, (hs.setCommands rest).refuseWord⟩
  · rw [hostTurn_of_busy (hs.host_eq hb)]
    exact exec_sameHostSide hs he

/-- At a host turn, states that agree on the host's side agree after the step. -/
theorem step_sameHostSide {s s' t : State} (hs : s.sameHostSide s') (hu : s.takeTurn.1 = .host)
    (hu' : s'.takeTurn.1 = .host) (h : step s = .next t) : ∃ t', step s' = .next t' ∧ t.sameHostSide t' := by
  obtain ⟨t₁, ht₁, rfl⟩ := step_next h
  rw [hu] at ht₁
  have htaken := s.sameHostSide_takeTurn.symm.trans (hs.trans s'.sameHostSide_takeTurn)
  obtain ⟨t₂, ht₂, hagree⟩ := hostTurn_sameHostSide htaken ht₁
  exact ⟨observeLines s' t₂, step_of_turn (by rwa [hu']), hagree⟩

/-! ### The turns listed -/

/-- A host turn leaves the turns listed. -/
theorem hostTurn_turns {s t : State} (h : hostTurn s = .next t) : t.turns = s.turns := by
  obtain ⟨-, -, rfl⟩ | ⟨w, rest, i, -, -, -, he⟩ | ⟨w, rest, r, -, -, -, rfl⟩ | ⟨i, k, written, -, he⟩ :=
    hostTurn_cases h
  · rfl
  · obtain ⟨-, -, -, hturns, -⟩ := exec_sameElsewhere he
    exact hturns
  · rfl
  · obtain ⟨-, -, -, hturns, -⟩ := exec_sameElsewhere he
    exact hturns

/-- A step takes the first of the turns listed. -/
theorem step_turns_of_cons {s t : State} {u : Turn} {rest : List Turn} (hu : s.turns = u :: rest)
    (h : step s = .next t) : t.turns = rest := by
  have htaken : s.takeTurn.2.turns = rest := by rw [State.takeTurn_cons hu]; rfl
  obtain ⟨-, t', ht, rfl⟩ | ⟨-, rfl⟩ | ⟨-, rfl⟩ := step_next_cases h
  · exact (hostTurn_turns ht).trans htaken
  · simpa using htaken
  · simpa using htaken

/-! ### The host's side along a schedule -/

/-- A step that is no host turn is a scan turn or a tick, and leaves the host's side (R72). -/
theorem step_keepsHostSide {s t : State} (hu : s.takeTurn.1 ≠ .host) (h : step s = .next t) : s.sameHostSide t := by
  obtain ⟨hhost, -⟩ | ⟨-, rfl⟩ | ⟨-, rfl⟩ := step_next_cases h
  · exact absurd hhost hu
  · simp [State.sameHostSide]
  · simp [State.sameHostSide]

/-- `s` with `n` host turns listed and no other turn. -/
def State.withHostTurnsOnly (s : State) (n : Nat) : State := s.setTurns (List.replicate n .host)

theorem State.sameHostSide_withHostTurnsOnly (s : State) (n : Nat) : s.sameHostSide (s.withHostTurnsOnly n) :=
  ⟨rfl, rfl, rfl, rfl, rfl⟩

/-- A run follows its schedule's host turns alone: from a state that agrees on the host's side, so many host turns
and no other turn end in agreement with it (R70, R72). -/
theorem run_followsHostTurns {turns rest : List Turn} {s s' t : State} (hs : s.sameHostSide s')
    (hturns : s.turns = turns ++ rest) (hturns' : s'.turns = List.replicate (turns.count .host) .host)
    (h : run turns.length s = .next t) : ∃ t', run (turns.count .host) s' = .next t' ∧ t.sameHostSide t' := by
  induction turns generalizing s s' with
  | nil =>
    cases h
    exact ⟨s', rfl, hs⟩
  | cons u us ih =>
    obtain ⟨s₁, hstep, hrun⟩ := run_succ_next h
    have hturns₁ := step_turns_of_cons hturns hstep
    have htake : s.takeTurn.1 = u := by rw [State.takeTurn_cons hturns]
    by_cases hu : u = .host
    · rw [hu, List.count_cons_self] at hturns' ⊢
      have htake' : s'.takeTurn.1 = .host := by rw [State.takeTurn_cons hturns']
      obtain ⟨s₂, hstep', hs₁⟩ := step_sameHostSide hs (htake.trans hu) htake' hstep
      rw [run_succ_of_step hstep']
      exact ih hs₁ hturns₁ (step_turns_of_cons hturns' hstep') hrun
    · rw [List.count_cons_of_ne hu] at hturns' ⊢
      have hkept : s.sameHostSide s₁ := step_keepsHostSide (htake ▸ hu) hstep
      exact ih (hkept.symm.trans hs) hturns₁ hturns' hrun

end Sys2Proof.Machine

/-! ### The obligations -/

namespace Sys2Proof

open Machine

/-- Settles O46, for the scan engine's turns and the tick alike. -/
theorem scanNeverWritesTheHostSide : Obligations.ScanNeverWritesTheHostSide :=
  fun _ _ h hu => step_keepsHostSide hu h

/-- Settles O55: only a host turn writes the frame store, and it writes inside it. -/
theorem stepKeepsTheMemoryForm : Obligations.StepKeepsTheMemoryForm := by
  intro s t hs h
  obtain ⟨-, t', ht, rfl⟩ | ⟨-, rfl⟩ | ⟨-, rfl⟩ := step_next_cases h
  · exact hostTurn_wf (t := t') (by simpa using hs) ht
  · simpa using hs
  · simpa using hs

/-- Settles O48: both runs follow one run of their equally many host turns, so they agree with each other. -/
theorem hostResultsDoNotDependOnTheScan : Obligations.HostResultsDoNotDependOnTheScan := by
  intro s s' t t' turns turns' rest rest' hs hturns hturns' hcount h h'
  have hsame := s.sameHostSide_withHostTurnsOnly (turns.count .host)
  obtain ⟨t₁, hrun, ht⟩ := run_followsHostTurns hsame hturns rfl h
  obtain ⟨t₂, hrun', ht'⟩ := run_followsHostTurns (hs.symm.trans hsame) hturns' (by rw [hcount]; rfl) h'
  rw [← hcount, hrun] at hrun'
  obtain rfl : t₁ = t₂ := Host.Outcome.next.inj hrun'
  exact ht.trans ht'.symm

end Sys2Proof

/-! SUPPORT. Command words field by field, decoder and encoder as one relation, the assembler's lines, and the statements of
spec/30_encoding.md settled from it. -/

namespace Sys2Proof

/-! ### The fields of a word -/

@[simp] theorem getElem_field (w : CommandWord) (lo n k : Nat) (h : k < n) : (field w lo n)[k] = w.getLsbD (lo + k) := by
  simp [field]

@[simp] theorem toNat_field (w : CommandWord) (lo n : Nat) : (field w lo n).toNat = w.toNat / 2 ^ lo % 2 ^ n := by
  simp [field, Nat.shiftRight_eq_div_pow]

@[simp] theorem getLsbD_placed {n : Nat} (v : BitVec n) (lo k : Nat) :
    (placed v lo).getLsbD k = (decide (k < 32) && !decide (k < lo) && v.getLsbD (k - lo)) := by
  by_cases hk : k < 32
  · simp [placed, hk]
  · simp [placed, hk]

@[simp] theorem field_or (w w' : CommandWord) (lo n : Nat) : field (w ||| w') lo n = field w lo n ||| field w' lo n := by
  apply BitVec.eq_of_getElem_eq
  simp

/-- An operand is read back from the place it was put in. -/
theorem field_placed_same {n lo : Nat} (v : BitVec n) (h : lo + n ≤ 32) : field (placed v lo) lo n = v := by
  apply BitVec.eq_of_getElem_eq
  intro k hk
  have hlo : lo + k < 32 := by omega
  rw [getElem_field, getLsbD_placed]
  simp [hlo, hk]

/-- An operand leaves the fields beside its own zero. -/
theorem field_placed_of_disjoint {m lo' lo n : Nat} (v : BitVec m) (h : lo + n ≤ lo' ∨ lo' + m ≤ lo) :
    field (placed v lo') lo n = 0 := by
  apply BitVec.eq_of_getElem_eq
  intro k hk
  obtain hbelow | habove := h
  · have hlo : lo + k < lo' := by omega
    simp [hlo]
  · have hm : v.getLsbD (lo + k - lo') = false := BitVec.getLsbD_of_ge v _ (by omega)
    simp [hm]

/-- `w[hi:lo]` is not zero when one of its bits is 1. -/
theorem field_ne_zero_iff {w : CommandWord} {lo n hi : Nat} (hwidth : lo + n = hi + 1) :
    field w lo n ≠ 0 ↔ ∃ k, lo ≤ k ∧ k ≤ hi ∧ w.getLsbD k = true := by
  constructor
  · intro h
    by_contra hzero
    refine h (BitVec.eq_of_getElem_eq fun k hk => ?_)
    simpa using fun hbit => hzero ⟨lo + k, by omega, by omega, hbit⟩
  · rintro ⟨k, hlo, hhi, hbit⟩ hzero
    have hk : (field w lo n)[k - lo]'(by omega) = false := by simp [hzero]
    rw [getElem_field, Nat.add_sub_cancel' hlo, hbit] at hk
    cases hk

/-- The opcode as a number (R90). -/
theorem opcode_eq_iff {w : CommandWord} {op : BitVec 4} : field w 28 4 = op ↔ w.toNat / 2 ^ 28 = op.toNat := by
  rw [← BitVec.toNat_inj, toNat_field]
  have := w.isLt
  omega

/-! ### The formats -/

/-- The word has the format of the command, each field with its value and the rest zero (R91 to R94), field by field from the
lowest. -/
def Instr.hasFormat (w : CommandWord) : Instr → Prop
  | .fill v => field w 0 8 = v ∧ field w 8 20 = 0 ∧ field w 28 4 = 1
  | .setpx x y c => field w 0 3 = c ∧ field w 3 5 = 0 ∧ field w 8 6 = y ∧ field w 14 2 = 0 ∧ field w 16 6 = x ∧
      field w 22 6 = 0 ∧ field w 28 4 = 2
  | .encc r g bl => field w 0 8 = bl ∧ field w 8 8 = g ∧ field w 16 8 = r ∧ field w 24 4 = 0 ∧ field w 28 4 = 3
  | .rdcell bk off => field w 0 9 = off ∧ field w 9 7 = 0 ∧ field w 16 2 = bk ∧ field w 18 10 = 0 ∧ field w 28 4 = 4

/-- The fields of a format cover the word: as numbers they are the digits of the word's number. -/
theorem Instr.hasFormat.unique {i : Instr} {w w' : CommandWord} (h : i.hasFormat w) (h' : i.hasFormat w') : w = w' := by
  apply BitVec.eq_of_toNat_eq
  cases i <;> simp only [Instr.hasFormat, ← BitVec.toNat_inj, toNat_field] at h h' <;> omega

/-- Each operand is read back from its place in the encoder's word, and the places beside it are zero. -/
theorem encode_hasFormat (i : Instr) : i.hasFormat (encode i) := by
  cases i with
  | fill v =>
    have : encode (.fill v) = placed (1 : BitVec 4) 28 ||| placed v 0 := rfl
    simp [Instr.hasFormat, this, field_placed_same, field_placed_of_disjoint]
  | setpx x y c =>
    have : encode (.setpx x y c) = placed (2 : BitVec 4) 28 ||| placed x 16 ||| placed y 8 ||| placed c 0 := rfl
    simp [Instr.hasFormat, this, field_placed_same, field_placed_of_disjoint]
  | encc r g bl =>
    have : encode (.encc r g bl) = placed (3 : BitVec 4) 28 ||| placed r 16 ||| placed g 8 ||| placed bl 0 := rfl
    simp [Instr.hasFormat, this, field_placed_same, field_placed_of_disjoint]
  | rdcell bk off =>
    have : encode (.rdcell bk off) = placed (4 : BitVec 4) 28 ||| placed bk 16 ||| placed off 0 := rfl
    simp [Instr.hasFormat, this, field_placed_same, field_placed_of_disjoint]

/-- The encoder gives the one word that has the command's format. -/
theorem encode_eq_iff {i : Instr} {w : CommandWord} : encode i = w ↔ i.hasFormat w :=
  ⟨fun h => h ▸ encode_hasFormat i, (encode_hasFormat i).unique⟩

/-! ### The decoder -/

/-- An `Except` is an error when it is no value. -/
theorem isError_iff {ε α : Type} {x : Except ε α} : (∃ e, x = .error e) ↔ ¬ ∃ a, x = .ok a := by
  cases x <;> simp

section Opcode

variable {w : CommandWord}

theorem decode_of_opcode_fill (h : field w 28 4 = 1) : decode w = decodeFill w := by simp [decode, h]

theorem decode_of_opcode_setpx (h : field w 28 4 = 2) : decode w = decodeSetpx w := by simp [decode, h]

theorem decode_of_opcode_encc (h : field w 28 4 = 3) : decode w = decodeEncc w := by simp [decode, h]

theorem decode_of_opcode_rdcell (h : field w 28 4 = 4) : decode w = decodeRdcell w := by simp [decode, h]

/-- An opcode the map reserves is rejected (R97 (a)). -/
theorem decode_of_opcode_reserved (h₁ : field w 28 4 ≠ 1) (h₂ : field w 28 4 ≠ 2) (h₃ : field w 28 4 ≠ 3)
    (h₄ : field w 28 4 ≠ 4) : decode w = .error (.opcode (field w 28 4)) := by
  simp only [decode, if_neg h₁, if_neg h₂, if_neg h₃, if_neg h₄]

/-- The five lines of the opcode map (R96). -/
theorem opcode_cases (w : CommandWord) : (field w 28 4 = 1 ∨ field w 28 4 = 2 ∨ field w 28 4 = 3 ∨ field w 28 4 = 4) ∨
    (field w 28 4 ≠ 1 ∧ field w 28 4 ≠ 2 ∧ field w 28 4 ≠ 3 ∧ field w 28 4 ≠ 4) := by
  tauto

theorem decodeFill_eq_ok {i : Instr} : decodeFill w = .ok i ↔ field w 8 20 = 0 ∧ .fill (field w 0 8) = i := by
  unfold decodeFill
  split <;> simp_all

theorem decodeSetpx_eq_ok {i : Instr} : decodeSetpx w = .ok i ↔
    (field w 22 6 = 0 ∧ field w 14 2 = 0 ∧ field w 3 5 = 0) ∧ .setpx (field w 16 6) (field w 8 6) (field w 0 3) = i := by
  unfold decodeSetpx
  split <;> simp_all

theorem decodeEncc_eq_ok {i : Instr} : decodeEncc w = .ok i ↔
    field w 24 4 = 0 ∧ .encc (field w 16 8) (field w 8 8) (field w 0 8) = i := by
  unfold decodeEncc
  split <;> simp_all

theorem decodeRdcell_eq_ok {i : Instr} : decodeRdcell w = .ok i ↔
    (field w 18 10 = 0 ∧ field w 9 7 = 0) ∧ (field w 0 9).toNat < 384 ∧ .rdcell (field w 16 2) (field w 0 9) = i := by
  unfold decodeRdcell
  split_ifs <;> simp_all

theorem decodeFill_isError : (∃ r, decodeFill w = .error r) ↔ ∃ n, 8 ≤ n ∧ n ≤ 27 ∧ w.getLsbD n = true := by
  rw [isError_iff, ← field_ne_zero_iff (n := 20) rfl]
  simp [decodeFill_eq_ok]

theorem decodeSetpx_isError : (∃ r, decodeSetpx w = .error r) ↔
    ∃ n, (22 ≤ n ∧ n ≤ 27 ∨ 14 ≤ n ∧ n ≤ 15 ∨ 3 ≤ n ∧ n ≤ 7) ∧ w.getLsbD n = true := by
  simp only [or_and_right, exists_or, and_assoc]
  rw [isError_iff, ← field_ne_zero_iff (n := 6) rfl, ← field_ne_zero_iff (n := 2) rfl, ← field_ne_zero_iff (n := 5) rfl]
  simp [decodeSetpx_eq_ok, imp_iff_not_or]

theorem decodeEncc_isError : (∃ r, decodeEncc w = .error r) ↔ ∃ n, 24 ≤ n ∧ n ≤ 27 ∧ w.getLsbD n = true := by
  rw [isError_iff, ← field_ne_zero_iff (n := 4) rfl]
  simp [decodeEncc_eq_ok]

theorem decodeRdcell_isError : (∃ r, decodeRdcell w = .error r) ↔
    (∃ n, (18 ≤ n ∧ n ≤ 27 ∨ 9 ≤ n ∧ n ≤ 15) ∧ w.getLsbD n = true) ∨ 384 ≤ w.toNat % 512 := by
  simp only [or_and_right, exists_or, and_assoc]
  rw [isError_iff, ← field_ne_zero_iff (n := 10) rfl, ← field_ne_zero_iff (n := 7) rfl]
  simp [decodeRdcell_eq_ok, imp_iff_not_or]

end Opcode

/-- A word of the command's format decodes to the command, if its operands are in range (R98). -/
theorem decode_of_hasFormat {i : Instr} {w : CommandWord} (hwf : i.wellFormed = true) (h : i.hasFormat w) :
    decode w = .ok i := by
  cases i with
  | fill v =>
    obtain ⟨rfl, hz, hop⟩ := h
    rw [decode_of_opcode_fill hop, decodeFill_eq_ok]
    exact ⟨hz, rfl⟩
  | setpx x y c =>
    obtain ⟨rfl, hz₁, rfl, hz₂, rfl, hz₃, hop⟩ := h
    rw [decode_of_opcode_setpx hop, decodeSetpx_eq_ok]
    exact ⟨⟨hz₃, hz₂, hz₁⟩, rfl⟩
  | encc r g bl =>
    obtain ⟨rfl, rfl, rfl, hz, hop⟩ := h
    rw [decode_of_opcode_encc hop, decodeEncc_eq_ok]
    exact ⟨hz, rfl⟩
  | rdcell bk off =>
    obtain ⟨rfl, hz₁, rfl, hz₂, hop⟩ := h
    rw [decode_of_opcode_rdcell hop, decodeRdcell_eq_ok]
    exact ⟨⟨hz₂, hz₁⟩, of_decide_eq_true hwf, rfl⟩

/-- A word that decodes has the format of its command. -/
theorem hasFormat_of_decode {i : Instr} {w : CommandWord} (h : decode w = .ok i) : i.hasFormat w := by
  obtain (hop | hop | hop | hop) | ⟨h₁, h₂, h₃, h₄⟩ := opcode_cases w
  · rw [decode_of_opcode_fill hop, decodeFill_eq_ok] at h
    obtain ⟨hz, rfl⟩ := h
    exact ⟨rfl, hz, hop⟩
  · rw [decode_of_opcode_setpx hop, decodeSetpx_eq_ok] at h
    obtain ⟨⟨hz₃, hz₂, hz₁⟩, rfl⟩ := h
    exact ⟨rfl, hz₁, rfl, hz₂, rfl, hz₃, hop⟩
  · rw [decode_of_opcode_encc hop, decodeEncc_eq_ok] at h
    obtain ⟨hz, rfl⟩ := h
    exact ⟨rfl, rfl, rfl, hz, hop⟩
  · rw [decode_of_opcode_rdcell hop, decodeRdcell_eq_ok] at h
    obtain ⟨⟨hz₂, hz₁⟩, -, rfl⟩ := h
    exact ⟨rfl, hz₁, rfl, hz₂, hop⟩
  · rw [decode_of_opcode_reserved h₁ h₂ h₃ h₄] at h
    cases h

end Sys2Proof

namespace Sys2Proof.Machine

/-! ### The assembler -/

/-- An operand in its range goes on as a field, any other ends the line in an error (R101). -/
@[simp] theorem operand_bind {w n : Nat} {α : Type} (f : BitVec w → Except AsmError α) :
    (operand w n >>= f) = if n < 2 ^ w then f (BitVec.ofNat w n) else .error (.outOfRange n) := by
  unfold operand
  split <;> rfl

theorem assembleLine_fill (v : Nat) : assembleLine (.fill v) =
    if v < 256 then .ok (some (.fill (BitVec.ofNat 8 v))) else .error (.outOfRange v) :=
  operand_bind _

theorem assembleLine_setpx (x y c : Nat) : assembleLine (.setpx x y c) =
    if x < 64 then
      if y < 64 then
        if c < 8 then .ok (some (.setpx (BitVec.ofNat 6 x) (BitVec.ofNat 6 y) (BitVec.ofNat 3 c)))
        else .error (.outOfRange c)
      else .error (.outOfRange y)
    else .error (.outOfRange x) := by
  simp only [assembleLine, assembleSetpx, operand_bind, Nat.reducePow]
  split_ifs <;> rfl

theorem assembleLine_encc (r g bl : Nat) : assembleLine (.encc r g bl) =
    if r < 256 then
      if g < 256 then
        if bl < 256 then .ok (some (.encc (BitVec.ofNat 8 r) (BitVec.ofNat 8 g) (BitVec.ofNat 8 bl)))
        else .error (.outOfRange bl)
      else .error (.outOfRange g)
    else .error (.outOfRange r) := by
  simp only [assembleLine, operand_bind]
  rfl

theorem assembleLine_rdcell (bk off : Nat) : assembleLine (.rdcell bk off) =
    if off < 384 then
      if bk < 4 then .ok (some (.rdcell (BitVec.ofNat 2 bk) (BitVec.ofNat 9 off))) else .error (.outOfRange bk)
    else .error (.outOfRange off) := by
  by_cases hoff : off < 384
  · have hfield : off < 512 := by omega
    simp only [assembleLine, assembleRdcell, operand_bind, Nat.reducePow, if_pos hoff, if_pos hfield]
    split <;> rfl
  · simp only [assembleLine, assembleRdcell, if_neg hoff]
    rfl

theorem assembleLine_setrgb (x y : Nat) {r g bl : Nat} (hr : r < 256) (hg : g < 256) (hbl : bl < 256) :
    assembleLine (.setrgb x y r g bl) =
      if x < 64 then
        if y < 64 then
          .ok (some (.setpx (BitVec.ofNat 6 x) (BitVec.ofNat 6 y)
            (encodeColor (BitVec.ofNat 8 r) (BitVec.ofNat 8 g) (BitVec.ofNat 8 bl))))
        else .error (.outOfRange y)
      else .error (.outOfRange x) := by
  simp only [assembleLine, assembleSetrgb, operand_bind, Nat.reducePow, if_pos hr, if_pos hg, if_pos hbl]
  split_ifs <;> rfl

/-- The number of a colour: the top bits of red, green and blue (R141). -/
theorem toNat_encodeColor (r g bl : Byte) :
    (encodeColor r g bl).toNat = r.toNat / 128 + 2 * (g.toNat / 128) + 4 * (bl.toNat / 128) := by
  have hbits : ∀ b₂ b₁ b₀ : BitVec 1, (b₂ ++ b₁ ++ b₀ : BitVec 3).toNat = b₀.toNat + 2 * b₁.toNat + 4 * b₂.toNat := by
    decide
  have hr := r.isLt
  have hg := g.isLt
  have hbl := bl.isLt
  simp only [encodeColor, hbits, BitVec.extractLsb'_toNat, Nat.shiftRight_eq_div_pow]
  omega

/-- An operand that fits its field stands in the word as the number written, shifted (R101). -/
theorem toNat_placed_ofNat {w n lo : Nat} (hn : n < 2 ^ w) (hlo : w + lo ≤ 32) :
    (placed (BitVec.ofNat w n) lo).toNat = n <<< lo := by
  have hshift : n <<< lo < 2 ^ 32 := by
    calc n <<< lo = n * 2 ^ lo := Nat.shiftLeft_eq ..
      _ < 2 ^ w * 2 ^ lo := Nat.mul_lt_mul_of_pos_right hn (Nat.two_pow_pos lo)
      _ = 2 ^ (w + lo) := (Nat.pow_add ..).symm
      _ ≤ 2 ^ 32 := Nat.pow_le_pow_right Nat.two_pos hlo
  have hsmall : n < 2 ^ 32 := hn.trans_le (Nat.pow_le_pow_right Nat.two_pos (by omega))
  simp only [placed, BitVec.toNat_shiftLeft, BitVec.toNat_setWidth, BitVec.toNat_ofNat]
  rw [Nat.mod_eq_of_lt hn, Nat.mod_eq_of_lt hsmall, Nat.mod_eq_of_lt hshift]

end Sys2Proof.Machine

/-! ### The obligations -/

namespace Sys2Proof

open Machine

/-- Settles O1: the word the encoder gives has the command's format, and the decoder reads a format back. -/
theorem decodeOfEncodeIsTheCommand : Obligations.DecodeOfEncodeIsTheCommand :=
  fun i hwf => decode_of_hasFormat hwf (encode_hasFormat i)

/-- Settles O2: a word that decodes has the format of its command, and the encoder's word is the only one that has. -/
theorem encodeOfDecodeIsTheWord : Obligations.EncodeOfDecodeIsTheWord :=
  fun _ _ h => ⟨decode_wellFormed h, encode_eq_iff.2 (hasFormat_of_decode h)⟩

/-- Settles O3: an opcode of the map leaves its format's must-be-zero fields and RDCELL's offset range to fail, any other
opcode is rejected by itself. -/
theorem decodeRejectsExactlyReservedWords : Obligations.DecodeRejectsExactlyReservedWords := by
  intro w
  obtain (hop | hop | hop | hop) | ⟨h₁, h₂, h₃, h₄⟩ := opcode_cases w
  · rw [decode_of_opcode_fill hop, decodeFill_isError, opcode_eq_iff.1 hop]
    simp
  · rw [decode_of_opcode_setpx hop, decodeSetpx_isError, opcode_eq_iff.1 hop]
    simp
  · rw [decode_of_opcode_encc hop, decodeEncc_isError, opcode_eq_iff.1 hop]
    simp
  · rw [decode_of_opcode_rdcell hop, decodeRdcell_isError, opcode_eq_iff.1 hop]
    simp
  · have hreserved : w.toNat / 2 ^ 28 = 0 ∨ 5 ≤ w.toNat / 2 ^ 28 := by
      simp only [ne_eq, opcode_eq_iff, BitVec.ofNat_eq_ofNat, BitVec.toNat_ofNat] at h₁ h₂ h₃ h₄
      omega
    exact iff_of_true ⟨_, decode_of_opcode_reserved h₁ h₂ h₃ h₄⟩ (.inl hreserved)

/-- Settles O6, line by line: the operands are checked one after another and placed as the numbers written. -/
theorem assembledWordsAreTheSyntaxTables : Obligations.AssembledWordsAreTheSyntaxTables := by
  refine ⟨fun v => ?_, fun x y c => ?_, fun r g bl => ?_, fun bk off => ?_⟩
  · rw [assembleLine_fill]
    split_ifs with hv
    · exact ⟨_, rfl, by simp [encode, toNat_placed_ofNat, hv]⟩
    · exact ⟨_, rfl⟩
  · rw [assembleLine_setpx]
    simp only [ite_and]
    split_ifs with hx hy hc
    · exact ⟨_, rfl, by simp [encode, toNat_placed_ofNat, hx, hy, hc]⟩
    all_goals exact ⟨_, rfl⟩
  · rw [assembleLine_encc]
    simp only [ite_and]
    split_ifs with hr hg hbl
    · exact ⟨_, rfl, by simp [encode, toNat_placed_ofNat, hr, hg, hbl]⟩
    all_goals exact ⟨_, rfl⟩
  · rw [assembleLine_rdcell]
    simp only [ite_and]
    split_ifs with hbk hoff
    · have hfield : off < 512 := by omega
      exact ⟨_, rfl, by simp [encode, toNat_placed_ofNat, hbk, hfield]⟩
    all_goals exact ⟨_, rfl⟩

/-- Settles O7: both lines check `x` and `y` alike, and the colour the assembler computes is in range. -/
theorem pseudoInstructionsExpand : Obligations.PseudoInstructionsExpand := by
  refine ⟨rfl, fun x y r g bl hr hg hbl => ?_⟩
  have hcolour : encodeColor (BitVec.ofNat 8 r) (BitVec.ofNat 8 g) (BitVec.ofNat 8 bl) =
      BitVec.ofNat 3 (r / 128 + 2 * (g / 128) + 4 * (bl / 128)) := by
    apply BitVec.eq_of_toNat_eq
    simp only [toNat_encodeColor, BitVec.toNat_ofNat]
    omega
  have hrange : r / 128 + 2 * (g / 128) + 4 * (bl / 128) < 8 := by omega
  rw [assembleLine_setrgb x y hr hg hbl, assembleLine_setpx, if_pos hrange, hcolour]

end Sys2Proof

/-! SUPPORT. What FILL and SETPX leave, FILL to its end alone and among the scan's turns, RDCELL's read, and the statements of
spec/40_framestore.md settled from it. -/

namespace Sys2Proof.Machine

/-! ### What the storing commands leave -/

/-- `s` and `t` agree on everything but the frame store and the port's progress, all that FILL and SETPX write. -/
def State.sameButStore (s t : State) : Prop := t.resp = s.resp ∧ t.refused = s.refused ∧ s.sameElsewhere t

theorem State.sameElsewhere.trans {s t u : State} (h : s.sameElsewhere t) (h' : t.sameElsewhere u) :
    s.sameElsewhere u := by
  obtain ⟨⟨hbank, hout, hfsm⟩, hpanel, hcommands, hturns, hdraws⟩ := h
  obtain ⟨⟨hbank', hout', hfsm'⟩, hpanel', hcommands', hturns', hdraws'⟩ := h'
  exact ⟨⟨hbank'.trans hbank, hout'.trans hout, hfsm'.trans hfsm⟩, hpanel'.trans hpanel,
    hcommands'.trans hcommands, hturns'.trans hturns, hdraws'.trans hdraws⟩

theorem State.sameButStore.trans {s t u : State} (h : s.sameButStore t) (h' : t.sameButStore u) : s.sameButStore u := by
  obtain ⟨hresp, hrefused, helse⟩ := h
  obtain ⟨hresp', hrefused', helse'⟩ := h'
  exact ⟨hresp'.trans hresp, hrefused'.trans hrefused, helse.trans helse'⟩

theorem execFill_sameButStore {v : Byte} {s t : State} (h : exec (.fill v) s = .next t) : s.sameButStore t := by
  refine ⟨?_, exec_refused h fun _ => rfl, exec_sameElsewhere h⟩
  obtain ⟨-, rfl⟩ | ⟨k, written, a, -, -, rfl⟩ | ⟨j, k, written, -, -, rfl⟩ := execFill_next h <;> rfl

theorem execSetpx_sameButStore {x y : Coord} {c : Colour} {s t : State} (h : exec (.setpx x y c) s = .next t) :
    s.sameButStore t := by
  refine ⟨?_, exec_refused h fun _ => rfl, exec_sameElsewhere h⟩
  obtain ⟨-, rfl⟩ | ⟨k, written, a, -, -, -, rfl⟩ | ⟨j, k, written, -, -, rfl⟩ := execSetpx_next h <;> rfl

/-- The step from `s` to `t` changes no cell but the one `target` names for the progress of command `i`, if the port is busy
with it. -/
def ChangesOnlyTarget (i : Instr) (target : Nat → Option Nat) (s t : State) : Prop :=
  ∀ b, t.cell b = s.cell b ∨ ∃ k written, s.host = .busy i k written ∧ target k = some b

theorem execFill_changesOnlyTarget {v : Byte} {s t : State} (h : exec (.fill v) s = .next t) :
    ChangesOnlyTarget (.fill v) fillCell s t := by
  intro b
  obtain ⟨-, rfl⟩ | ⟨k, written, a, hb, ha, rfl⟩ | ⟨j, k, written, -, -, rfl⟩ := execFill_next h
  · exact .inl rfl
  · by_cases hab : a = b
    · exact .inr ⟨k, written, hb, hab ▸ ha⟩
    · exact .inl (Memory.read_write_other s.fb v hab)
  · exact .inl rfl

theorem execSetpx_changesOnlyTarget {x y : Coord} {c : Colour} {s t : State} (h : exec (.setpx x y c) s = .next t) :
    ChangesOnlyTarget (.setpx x y c) (planeCell x y) s t := by
  intro b
  obtain ⟨-, rfl⟩ | ⟨k, written, a, hb, -, ha, rfl⟩ | ⟨j, k, written, -, -, rfl⟩ := execSetpx_next h
  · exact .inl rfl
  · by_cases hab : a = b
    · exact .inr ⟨k, written, hb, hab ▸ ha⟩
    · exact .inl (Memory.read_write_other s.fb _ hab)
  · exact .inl rfl

/-- While the port is busy with the command, every cell but the target keeps its value. -/
theorem ChangesOnlyTarget.other_cells {i : Instr} {target : Nat → Option Nat} {s t : State}
    (h : ChangesOnlyTarget i target s t) {k a b : Nat} {written : List Nat} (hb : s.host = .busy i k written)
    (ha : target k = some a) (hne : b ≠ a) : t.cell b = s.cell b := by
  obtain hkept | ⟨k', written', hb', htarget⟩ := h b
  · exact hkept
  · obtain ⟨-, rfl, -⟩ := HostPort.busy.inj (hb.symm.trans hb')
    exact absurd (Option.some.inj (htarget.symm.trans ha)) hne

/-- A port not busy with the command stores nothing. -/
theorem ChangesOnlyTarget.all_cells {i : Instr} {target : Nat → Option Nat} {s t : State}
    (h : ChangesOnlyTarget i target s t) (hidle : ∀ k written, s.host ≠ .busy i k written) (b : Nat) :
    t.cell b = s.cell b :=
  (h b).resolve_right fun ⟨k, written, hb, _⟩ => hidle k written hb

/-! ### FILL, step by step and to its end -/

theorem fillCell_of_lt {k : Nat} (hk : k < 1536) : fillCell k = some (Config.fillOrder ⟨k, hk⟩).val := dif_pos hk

theorem portAfter_fill (v : Byte) (k : Nat) (written : List Nat) :
    portAfter (.fill v) k written = if k = 1535 then .ready else .busy (.fill v) (k + 1) written := by
  simp [portAfter, microSteps]

/-- All 1536 entries of `FILL_ORDER` cover the frame store (R121). -/
theorem mem_of_writtenBy_all {written : List Nat} (h : writtenBy 1536 written) {a : Nat} (ha : a < 1536) :
    a ∈ written := by
  obtain ⟨-, hmem⟩ := h
  exact (hmem a).2 (fillCell_surj ha)

/-- The micro-step that frees FILL's port was the last, and leaves `v` in every cell: the invariant has it in the cells written
before, and `FILL_ORDER` has no other (R120, R121). -/
theorem execFill_completes {v : Byte} {k : Nat} {written : List Nat} {s t : State} (hs : s.HostInv)
    (hb : s.host = .busy (.fill v) k written) (h : exec (.fill v) s = .next t) (ht : t.host = .ready) {b : Nat}
    (hlt : b < 1536) : t.cell b = v := by
  obtain ⟨-, hw, hv⟩ := (hostInv_iff_of_fill hb).1 hs
  obtain ⟨a, ha, rfl⟩ := fillStep_next ((runCommand_busy hb).symm.trans h)
  obtain rfl : k = 1535 := by
    by_contra hmore
    rw [State.setHost_host, portAfter_fill, if_neg hmore] at ht
    cases ht
  rw [State.cell_setHost, State.cell_writeCell]
  split_ifs with hab
  · rfl
  · have hmem := mem_of_writtenBy_all (writtenBy_succ hw ha) hlt
    exact hv b (((mem_insertCell a b written).1 hmem).resolve_left (Ne.symm hab))

theorem execTimes_succ_of_exec {n : Nat} {i : Instr} {s t : State} (h : exec i s = .next t) :
    execTimes (n + 1) i s = execTimes n i t := by simp [execTimes, h]

/-- A FILL in progress with `n` micro-steps left completes in them, by induction on `n`. -/
theorem execTimes_fill {v : Byte} {n k : Nat} {written : List Nat} {s : State} (hs : s.HostInv)
    (hb : s.host = .busy (.fill v) k written) (hn : k + n = 1536) :
    ∃ t, execTimes n (.fill v) s = .next t ∧ t.host = .ready ∧ (∀ a, a < 1536 → t.cell a = v) ∧ s.sameButStore t := by
  obtain ⟨hwf, hk⟩ := hs.busy hb
  induction n generalizing s k written with
  | zero =>
    simp only [microSteps] at hk
    omega
  | succ n ih =>
    obtain ⟨s₁, written₁, he, hport⟩ := exec_busy hb hwf hk
    rw [execTimes_succ_of_exec he]
    by_cases hl : k + 1 = 1536
    · obtain rfl : n = 0 := by omega
      have hready : s₁.host = .ready := hport.trans (portAfter_last hl _)
      exact ⟨s₁, rfl, hready, fun a => execFill_completes hs hb he hready, execFill_sameButStore he⟩
    · have hs₁ := execFill_hostInv hs he
      have hb₁ := hport.trans (portAfter_more hl _)
      obtain ⟨t, hrun, hready, hcells, hkept⟩ := ih hs₁ hb₁ (by omega) (hs₁.busy hb₁).2
      exact ⟨t, hrun, hready, hcells, (execFill_sameButStore he).trans hkept⟩

/-! ### FILL among the scan's turns -/

/-- The last command issued is FILL v: it is in progress, or it is complete and every cell holds `v`; no word waits. -/
def State.FillIsLast (v : Byte) (s : State) : Prop :=
  s.HostInv ∧ s.commands = [] ∧
    ((∃ k written, s.host = .busy (.fill v) k written) ∨ (s.host = .ready ∧ ∀ a, a < 1536 → s.cell a = v))

/-- It is a property of the host's side, which the scan engine and the tick leave alone (R72). -/
theorem State.FillIsLast.of_sameHostSide {v : Byte} {s t : State} (h : s.FillIsLast v) (hst : s.sameHostSide t) :
    t.FillIsLast v := by
  obtain ⟨hinv, hc, hport⟩ := h
  have ⟨hfb, _, hhost, _, _⟩ := hst
  refine ⟨hinv.congr hhost hfb, hst.commands_eq hc, ?_⟩
  obtain ⟨k, written, hb⟩ | ⟨hr, hcells⟩ := hport
  · exact .inl ⟨k, written, hst.host_eq hb⟩
  · exact .inr ⟨hst.host_eq hr, fun a ha => (hst.cell_eq a).trans (hcells a ha)⟩

/-- A host turn does FILL's next micro-step, or, the port ready and no word waiting, nothing (R43). -/
theorem hostTurn_fillIsLast {v : Byte} {s t : State} (hs : s.FillIsLast v) (h : hostTurn s = .next t) :
    t.FillIsLast v := by
  have ⟨hinv, hc, hport⟩ := hs
  obtain ⟨k, written, hb⟩ | ⟨hr, -⟩ := hport
  · have he : exec (.fill v) s = .next t := (hostTurn_of_busy hb).symm.trans h
    obtain ⟨-, -, hcommands, -⟩ := exec_sameElsewhere he
    refine ⟨execFill_hostInv hinv he, hcommands.trans hc, ?_⟩
    obtain ⟨a, -, rfl⟩ := fillStep_next ((runCommand_busy hb).symm.trans he)
    by_cases hl : k + 1 = microSteps (.fill v)
    · have hready := portAfter_last hl (insertCell a written)
      exact .inr ⟨hready, fun b => execFill_completes hinv hb he hready⟩
    · exact .inl ⟨k + 1, insertCell a written, portAfter_more hl _⟩
  · obtain rfl : s = t := Host.Outcome.next.inj ((hostTurn_of_noWord hr hc).symm.trans h)
    exact hs

/-- Every step, of either agent, keeps it (R122). -/
theorem step_fillIsLast {v : Byte} {s t : State} (hs : s.FillIsLast v) (h : step s = .next t) : t.FillIsLast v := by
  by_cases hu : s.takeTurn.1 = .host
  · obtain ⟨t', ht', rfl⟩ := step_next h
    rw [hu] at ht'
    have htaken := hs.of_sameHostSide s.sameHostSide_takeTurn
    exact (hostTurn_fillIsLast htaken ht').of_sameHostSide ⟨rfl, rfl, rfl, rfl, rfl⟩
  · exact hs.of_sameHostSide (step_keepsHostSide hu h)

/-! ### RDCELL -/

/-- RDCELL's one micro-step reads the cell and frees the port (R124). -/
theorem execRdcell_busy {bk : Bank} {off : OffsetField} {written : List Nat} {s : State} (ho : off.toNat < 384)
    (hb : s.host = .busy (.rdcell bk off) 0 written) :
    exec (.rdcell bk off) s = .next ((s.setResp (s.cell (384 * bk.toNat + off.toNat))).setHost .ready) :=
  (runCommand_busy hb).trans (rdcellStep_zero s ho)

end Sys2Proof.Machine

/-! ### The obligations -/

namespace Sys2Proof

open Machine

/-- Settles O17: FILL in progress or complete is an invariant of every step while no word waits. -/
theorem fillHoldsUnderEveryInterleaving : Obligations.FillHoldsUnderEveryInterleaving := by
  intro s t v k written n hs hb hc h hr
  obtain ⟨-, hinv, -⟩ := hs
  have hstart : s.FillIsLast v := ⟨hinv, hc, .inl ⟨k, written, hb⟩⟩
  obtain ⟨-, -, ⟨k', written', hb'⟩ | ⟨-, hcells⟩⟩ := run_keeps (fun _ _ => step_fillIsLast) hstart h
  · simp [hr] at hb'
  · exact hcells

/-- Settles O16: the acceptance, the write at `FILL_ORDER`'s entry, and all 1536 of them after the acceptance. -/
theorem fillOverwritesEveryCell : Obligations.FillOverwritesEveryCell := by
  intro v s
  have hacc (hr : s.host = .ready) : exec (.fill v) s = .next (s.setHost (.busy (.fill v) 0 [])) :=
    exec_accept hr rfl (by simp [microSteps])
  refine ⟨hacc, fun k written hk hb => ?_, fun hr => ?_⟩
  · rw [← portAfter_fill]
    exact (runCommand_busy hb).trans (fillStep_of_cell s (fillCell_of_lt hk))
  · have hacc := hacc hr
    have hinv := execFill_hostInv (hostInv_of_ready hr) hacc
    obtain ⟨t, hrun, hready, hcells, hkept⟩ := execTimes_fill (n := 1536) hinv rfl rfl
    obtain ⟨hresp, hrefused, helse⟩ := (execFill_sameButStore hacc).trans hkept
    exact ⟨t, (execTimes_succ_of_exec hacc).trans hrun, hready, hcells, hresp, hrefused, helse⟩

/-- Settles O26: each of the two commands changes its target cell alone, and only while the port is busy with it. -/
theorem storingCommandsFrame : Obligations.StoringCommandsFrame := by
  refine ⟨fun v s t h => ?_, fun x y c s t h => ?_⟩
  · obtain ⟨hresp, hrefused, helse⟩ := execFill_sameButStore h
    have hcells := execFill_changesOnlyTarget h
    exact ⟨hresp, hrefused, helse, fun _ _ _ hb ha _ => hcells.other_cells hb ha, hcells.all_cells⟩
  · obtain ⟨hresp, hrefused, helse⟩ := execSetpx_sameButStore h
    have hcells := execSetpx_changesOnlyTarget h
    exact ⟨hresp, hrefused, helse, fun _ _ _ hb ha _ => hcells.other_cells hb ha, hcells.all_cells⟩

/-- Settles O18: the acceptance, then the read, which leaves the port ready as it was. -/
theorem rdcellReadsOneCell : Obligations.RdcellReadsOneCell := by
  intro bk off s ho
  have hacc (hr : s.host = .ready) : exec (.rdcell bk off) s = .next (s.setHost (.busy (.rdcell bk off) 0 [])) :=
    exec_accept hr (decide_eq_true ho) Nat.one_pos
  refine ⟨hacc, fun written hb => execRdcell_busy ho hb, fun hr => ?_⟩
  rw [execTimes_succ_of_exec (hacc hr), execTimes_succ_of_exec (execRdcell_busy ho (State.setHost_host ..))]
  exact congrArg Host.Outcome.next (State.setHost_self (s := s.setResp _) hr)

end Sys2Proof

/-! SUPPORT. Where a pixel's planes lie, the bijection of pixels and planes with the frame store's bits, what SETPX run to its
end leaves, and the statements of spec/41_bit_plane_encoder.md settled from it. -/

namespace Sys2Proof.Machine

/-! ### The bank, the row group and the offset -/

/-- The operand formulas' masks are remainders and quotients by powers of two on a coordinate (R152). -/
theorem coord_and (n : Coord) :
    n.toNat &&& 3 = n.toNat % 4 ∧ n.toNat &&& 7 = n.toNat % 8 ∧ n.toNat &&& 0xF8 = 8 * (n.toNat / 8) ∧
      n.toNat &&& 4 = 4 * (n.toNat / 4 % 2) ∧ (n.toNat &&& 0x3F) >>> 3 = n.toNat / 8 := by
  have h : ∀ n : Fin 64, n.val &&& 3 = n.val % 4 ∧ n.val &&& 7 = n.val % 8 ∧ n.val &&& 0xF8 = 8 * (n.val / 8) ∧
      n.val &&& 4 = 4 * (n.val / 4 % 2) ∧ (n.val &&& 0x3F) >>> 3 = n.val / 8 := by decide
  exact h n.toFin

theorem toNat_bankOf (y : Coord) : (bankOf y).toNat = y.toNat % 4 := by
  obtain ⟨hand, -⟩ := coord_and y
  simp [bankOf, hand]

theorem val_rowGroup (y : Coord) : (rowGroup y).val = y.toNat / 8 := by
  obtain ⟨-, -, -, -, hshift⟩ := coord_and y
  have hlt := y.isLt
  simp only [rowGroup, Fin.val_ofNat, hshift]
  omega

theorem planeOffset_eq (x y : Coord) (p : Nat) :
    planeOffset x y p = x.toNat % 8 + 8 * (y.toNat / 4 % 2) + 16 * p + 48 * (x.toNat / 8) := by
  obtain ⟨-, hx7, hxF8, -, -⟩ := coord_and x
  obtain ⟨-, -, -, hy4, -⟩ := coord_and y
  simp only [planeOffset, offset, hx7, hxF8, hy4]
  omega

/-- Bank, row group and offset determine the pixel and the plane (R151). -/
theorem pixel_unique {x y x' y' : Coord} {p p' : Nat} (hp : p < 3) (hp' : p' < 3) (hbank : bankOf y = bankOf y')
    (hgroup : rowGroup y = rowGroup y') (hoffset : planeOffset x y p = planeOffset x' y' p') :
    x = x' ∧ y = y' ∧ p = p' := by
  have hmod : y.toNat % 4 = y'.toNat % 4 := by rw [← toNat_bankOf, hbank, toNat_bankOf]
  have hdiv : y.toNat / 8 = y'.toNat / 8 := by rw [← val_rowGroup, hgroup, val_rowGroup]
  rw [planeOffset_eq, planeOffset_eq] at hoffset
  exact ⟨BitVec.eq_of_toNat_eq (by omega), BitVec.eq_of_toNat_eq (by omega), by omega⟩

/-- The inverse map is a right inverse: the pixel and plane it names lie in the bank, row group and offset given (R153). -/
theorem exists_pixelOf (b : Bank) (o : Fin 384) (k : Fin 8) :
    ∃ (x y : Coord) (p : Fin 3), pixelOf b.toNat o.val k.val = ⟨x.toNat, y.toNat, p.val⟩ ∧
      bankOf y = b ∧ rowGroup y = k ∧ planeOffset x y p.val = o.val := by
  have ho := o.isLt
  have hk := k.isLt
  have hb := b.isLt
  refine ⟨.ofNatLT (8 * (o.val / 48) + o.val % 48 % 8) (by omega),
    .ofNatLT (8 * k.val + 4 * (o.val % 48 % 16 / 8) + b.toNat) (by omega), ⟨o.val % 48 / 16, by omega⟩, rfl,
    BitVec.eq_of_toNat_eq ?_, Fin.ext ?_, ?_⟩
  · rw [toNat_bankOf, BitVec.toNat_ofNatLT]
    omega
  · rw [val_rowGroup, BitVec.toNat_ofNatLT]
    omega
  · simp only [planeOffset_eq, BitVec.toNat_ofNatLT]
    omega

/-! ### The line map -/

section LineMaps

variable (lm : LineMap)

/-- Every data line carries a row group: 8 masks of one bit each, no two alike, use all 8 lines (R36). -/
theorem exists_mask_eq_twoPow (l : Fin 8) : ∃ k : Fin 8, lm.mask[k] = BitVec.twoPow 8 l.val := by
  choose line hline using lm.oneHot
  have hinj : Function.Injective line := fun j k h => lm.distinct j k (by rw [hline, hline, h])
  obtain ⟨k, rfl⟩ := Finite.surjective_of_injective hinj l
  exact ⟨k, hline k⟩

/-- A row's mask has a line's bit exactly when the row is of the row group that line carries. -/
theorem maskOf_getLsbD_iff {y y' : Coord} {l : Fin 8} (hl : maskOf lm y' = BitVec.twoPow 8 l.val) :
    (maskOf lm y).getLsbD l.val = true ↔ rowGroup y = rowGroup y' := by
  obtain ⟨j, hj⟩ := lm.oneHot (rowGroup y)
  have hy : maskOf lm y = BitVec.twoPow 8 j.val := hj
  constructor
  · intro hbit
    obtain rfl : l = j := Fin.ext (by simpa [hy] using hbit)
    exact lm.distinct _ _ (hy.trans hl.symm)
  · intro hgroup
    have hsame : maskOf lm y = maskOf lm y' := congrArg (fun k : Fin 8 => lm.mask[k]) hgroup
    simp [hsame, hl]

/-- The mask is the entry of the table that R145 names. -/
theorem mask_rowGroup (y : Coord) : lm.mask[(y.toNat &&& 0x3F) >>> 3]? = some (maskOf lm y) := by
  obtain ⟨-, -, -, -, hshift⟩ := coord_and y
  rw [hshift, ← val_rowGroup]
  exact Vector.getElem?_eq_getElem (rowGroup y).isLt

end LineMaps

/-! ### The plane update -/

/-- Of two updates through one mask the later decides (R147, R148 (b)). -/
theorem planeUpdate_planeUpdate (bit bit' : Bool) (m v : Byte) :
    planeUpdate bit m (planeUpdate bit' m v) = planeUpdate bit m v := by
  refine BitVec.eq_of_getLsbD_eq fun l hl => ?_
  simp only [planeUpdate_bit _ _ _ hl]
  split <;> rfl

/-- The two planes of a pixel share a cell only if they are one. -/
theorem planeIndex_eq_iff {x y : Coord} {p q : Nat} :
    cellIndex (bankOf y) (planeOffset x y p) = cellIndex (bankOf y) (planeOffset x y q) ↔ p = q :=
  ⟨planeCell_plane_inj, fun h => by rw [h]⟩

/-! ### SETPX to its end -/

namespace State

variable (s : State) (x y : Coord) (c : Colour)

/-- Plane `p` of the pixel updated with colour bit `p`: what one micro-step of SETPX stores (R146). -/
def updatePlane (p : Nat) : State :=
  s.rmwCell (cellIndex (bankOf y) (planeOffset x y p)) (planeUpdate (c.getLsbD p) (maskOf Config.lineMap y))

/-- All three planes of the pixel updated: what SETPX stores (R146). -/
def withPixel : State := ((s.updatePlane x y c 0).updatePlane x y c 1).updatePlane x y c 2

theorem cell_updatePlane (p a : Nat) : (s.updatePlane x y c p).cell a =
    if cellIndex (bankOf y) (planeOffset x y p) = a then
      planeUpdate (c.getLsbD p) (maskOf Config.lineMap y) (s.cell a)
    else s.cell a := by
  rw [updatePlane, cell_rmwCell]
  split_ifs with ha
  · rw [ha]
  · rfl

/-- Each of the pixel's cells is updated once: the other two planes lie elsewhere. -/
theorem cell_withPixel_plane {p : Nat} (hp : p < 3) :
    (s.withPixel x y c).cell (cellIndex (bankOf y) (planeOffset x y p)) =
      planeUpdate (c.getLsbD p) (maskOf Config.lineMap y) (s.cell (cellIndex (bankOf y) (planeOffset x y p))) := by
  obtain rfl | rfl | rfl : p = 0 ∨ p = 1 ∨ p = 2 := by omega
  all_goals simp [withPixel, cell_updatePlane, planeIndex_eq_iff]

theorem cell_withPixel_other {a : Nat} (ha : ∀ p, p < 3 → cellIndex (bankOf y) (planeOffset x y p) ≠ a) :
    (s.withPixel x y c).cell a = s.cell a := by
  simp [withPixel, cell_updatePlane, ha]

theorem wf_withPixel (h : s.fb.wf = true) : (s.withPixel x y c).fb.wf = true := by
  have hplane (u : State) (p : Nat) (hp : p < 3) (hu : u.fb.wf = true) : (u.updatePlane x y c p).fb.wf = true :=
    Memory.wf_write _ hu (cellIndex_lt _ (planeOffset_lt x y hp))
  exact hplane _ 2 (by omega) (hplane _ 1 (by omega) (hplane _ 0 (by omega) h))

/-- The later of two SETPX of one pixel decides what the frame store holds (R148 (b), (c)). -/
theorem withPixel_withPixel_fb (c' : Colour) (h : s.fb.wf = true) :
    ((s.withPixel x y c').withPixel x y c).fb = (s.withPixel x y c).fb := by
  have hwf (c : Colour) {s : State} (h : s.fb.wf = true) := s.wf_withPixel x y c h
  refine Memory.ext_of_wfFrom (hwf c (hwf c' h)) (hwf c h) fun a => ?_
  change ((s.withPixel x y c').withPixel x y c).cell a = (s.withPixel x y c).cell a
  by_cases ha : ∃ p, p < 3 ∧ cellIndex (bankOf y) (planeOffset x y p) = a
  · obtain ⟨p, hp, rfl⟩ := ha
    simp only [cell_withPixel_plane _ _ _ _ hp, planeUpdate_planeUpdate]
  · have hne : ∀ p, p < 3 → cellIndex (bankOf y) (planeOffset x y p) ≠ a := fun p hp he => ha ⟨p, hp, he⟩
    simp only [cell_withPixel_other _ _ _ _ hne]

/-- SETPX keeps a bit of the frame store that lies in none of the pixel's cells, or off its row's line (R148 (d)). -/
theorem cell_withPixel_getLsbD {a : Nat} {l : Fin 8}
    (h : ∀ p, p < 3 → cellIndex (bankOf y) (planeOffset x y p) = a → (maskOf Config.lineMap y).getLsbD l.val = false) :
    ((s.withPixel x y c).cell a).getLsbD l.val = (s.cell a).getLsbD l.val := by
  by_cases ha : ∃ p, p < 3 ∧ cellIndex (bankOf y) (planeOffset x y p) = a
  · obtain ⟨p, hp, rfl⟩ := ha
    rw [cell_withPixel_plane _ _ _ _ hp, planeUpdate_bit _ _ _ l.isLt, h p hp rfl]
    rfl
  · rw [cell_withPixel_other _ _ _ _ fun p hp he => ha ⟨p, hp, he⟩]

end State

/-- SETPX's micro-step in progress `p` updates plane `p` and moves the port on (R43, R146). -/
theorem execSetpx_busy {x y : Coord} {c : Colour} {s : State} {p : Nat} {written : List Nat}
    (hb : s.host = .busy (.setpx x y c) p written) (hp : p < 3) :
    exec (.setpx x y c) s = .next ((s.updatePlane x y c p).setHost (portAfter (.setpx x y c) p [])) :=
  (runCommand_busy hb).trans (setpxStep_of_lt s hp)

/-- From a ready port SETPX completes in four micro-steps, and its stores are all it leaves. -/
theorem execTimes_setpx {x y : Coord} {c : Colour} {s : State} (hr : s.host = .ready) :
    execTimes 4 (.setpx x y c) s = .next (s.withPixel x y c) := by
  rw [execTimes_succ_of_exec (exec_accept hr rfl (by simp [microSteps])),
    execTimes_succ_of_exec (execSetpx_busy (p := 0) rfl (by omega)),
    execTimes_succ_of_exec (execSetpx_busy (p := 1) rfl (by omega)),
    execTimes_succ_of_exec (execSetpx_busy (p := 2) rfl (by omega))]
  exact congrArg Host.Outcome.next (State.setHost_self (s := s.withPixel x y c) hr)

/-! ### The colour read back -/

/-- A pixel reads back as the colour whose bits its three cells hold on its line (R153). -/
theorem readPixel_ext {s : State} {x y : Coord} {l : Fin 8} {c : Colour}
    (h : ∀ p : Fin 3, (s.cell (cellIndex (bankOf y) (planeOffset x y p.val))).getLsbD l.val = c.getLsbD p.val) :
    readPixel s x y l = c :=
  BitVec.eq_of_getLsbD_eq fun p hp => (readPixel_bit s x y l ⟨p, hp⟩).trans (h ⟨p, hp⟩)

end Sys2Proof.Machine

/-! ### The obligations -/

namespace Sys2Proof

open Machine

/-- Settles O20: the acceptance writes RESP alone, and the colour's number is the sum of the channels' top bits. -/
theorem enccEncodesTheColour : Obligations.EnccEncodesTheColour := by
  intro r g bl s hr
  have hcolour : (encodeColor r g bl).zeroExtend 8 =
      BitVec.ofNat 8 (r.toNat / 128 + 2 * (g.toNat / 128) + 4 * (bl.toNat / 128)) := by
    rw [← toNat_encodeColor, BitVec.ofNat_toNat]
  rw [exec_encc_ready hr, ← hcolour]
  exact congrArg Host.Outcome.next (State.setHost_self (s := s.setResp _) hr)

/-- Settles O21: the acceptance, then the update of one plane at the address and through the mask of R143 to R145. -/
theorem setpxUpdatesItsPlanes : Obligations.SetpxUpdatesItsPlanes := by
  intro x y c s
  refine ⟨fun hr => exec_accept hr rfl (by simp [microSteps]), fun p written a m hb hp ha hm => ?_⟩
  obtain rfl : maskOf Config.lineMap y = m := Option.some.inj ((mask_rowGroup Config.lineMap y).symm.trans hm)
  obtain rfl : cellIndex (bankOf y) (planeOffset x y p) = a := by
    obtain ⟨hand, -⟩ := coord_and y
    rw [ha, cellIndex, toNat_bankOf, hand, planeOffset, offset, Nat.add_assoc (384 * _)]
  have hport : portAfter (.setpx x y c) p [] = if p = 2 then .ready else .busy (.setpx x y c) (p + 1) [] := by
    simp [portAfter, microSteps]
  rw [execSetpx_busy hb hp, hport]
  rfl

/-- Settles O22: the state after the four micro-steps has the three planes updated and nothing else. -/
theorem setpxCompletes : Obligations.SetpxCompletes := by
  intro x y c s hr
  have hother (a : Nat) (ha : ∀ p, p < 3 → planeCell x y p ≠ some a) : (s.withPixel x y c).cell a = s.cell a :=
    s.cell_withPixel_other x y c fun p hp he => ha p hp (he ▸ planeCell_eq x y hp)
  exact ⟨_, execTimes_setpx hr, hr, fun p => s.cell_withPixel_plane x y c, hother, rfl, rfl,
    ⟨rfl, rfl, rfl⟩, rfl, rfl, rfl, rfl⟩

/-- Settles O23: on the pixel's line each updated plane holds its colour bit. -/
theorem setpxColourReadsBack : Obligations.SetpxColourReadsBack := by
  intro x y c s l hr hl
  refine ⟨_, execTimes_setpx hr, readPixel_ext fun p => ?_⟩
  rw [s.cell_withPixel_plane x y c p.isLt, planeUpdate_bit _ _ _ l.isLt,
    if_pos ((maskOf_getLsbD_iff Config.lineMap hl).2 rfl)]

/-- Settles O24: the cells agree, and in canonical form equal contents are equal data. -/
theorem lastSetpxOfAPixelWins : Obligations.LastSetpxOfAPixelWins := by
  intro x y c c' s hr hwf
  have hr' : (s.withPixel x y c').host = .ready := hr
  exact ⟨_, _, _, execTimes_setpx hr, execTimes_setpx hr, execTimes_setpx hr', s.withPixel_withPixel_fb x y c c' hwf⟩

/-- Settles O25: a pixel that shares a cell with the written one lies in another row group, so on another line. -/
theorem setpxKeepsOtherPixels : Obligations.SetpxKeepsOtherPixels := by
  intro x y x' y' c s l hr hne hl
  refine ⟨_, execTimes_setpx hr, readPixel_ext fun p' => ?_⟩
  rw [readPixel_bit]
  refine s.cell_withPixel_getLsbD x y c fun p hp hcell => ?_
  obtain ⟨hbank, hoffset⟩ := cellIndex_inj (planeOffset_lt x y hp) (planeOffset_lt x' y' p'.isLt) hcell
  refine Bool.eq_false_iff.2 fun hbit => hne ?_
  have hgroup := (maskOf_getLsbD_iff Config.lineMap hl).1 hbit
  obtain ⟨hx, hy, -⟩ := pixel_unique hp p'.isLt hbank hgroup hoffset
  rw [hx, hy]

/-- Settles O27: by what each of the two commands can answer. -/
theorem nonStoringCommandsFrame : Obligations.NonStoringCommandsFrame := by
  refine ⟨fun r g bl s t h => ?_, fun bk off s t h => ?_⟩
  · obtain ⟨hhost, hcells⟩ : t.host = s.host ∧ ∀ a, t.cell a = s.cell a := by
      obtain ⟨-, rfl⟩ | ⟨j, k, written, -, -, rfl⟩ := execEncc_next h <;> exact ⟨rfl, fun _ => rfl⟩
    exact ⟨exec_refused h fun _ => rfl, hhost, exec_sameElsewhere h, hcells⟩
  · refine ⟨fun ho => exec_refused h fun _ => decide_eq_true ho, exec_sameElsewhere h, ?_⟩
    obtain ⟨-, -, rfl⟩ | ⟨-, -, rfl⟩ | ⟨written, hb, -, rfl⟩ | ⟨j, k, written, -, -, rfl⟩ := execRdcell_next h
    · exact ⟨fun _ => rfl, fun _ => rfl⟩
    · exact ⟨fun _ => rfl, fun _ => rfl⟩
    · exact ⟨fun _ => rfl, fun hidle => absurd hb (hidle 0 written)⟩
    · exact ⟨fun _ => rfl, fun _ => rfl⟩

/-- Settles O29: the masks and shifts of the formulas as remainders and quotients. -/
theorem bankLayout : Obligations.BankLayout :=
  fun x y p => ⟨toNat_bankOf y, val_rowGroup y, planeOffset_eq x y p⟩

/-- Settles O30: the inverse map gives the pixel and plane, and bank, row group and offset leave no other. -/
theorem pixelPlanesAndCellBitsAreInBijection : Obligations.PixelPlanesAndCellBitsAreInBijection := by
  intro lm
  refine ⟨fun x y p => ⟨planeOffset_lt x y p.isLt, lm.oneHot (rowGroup y)⟩, fun b o l => ?_⟩
  obtain ⟨k, hk⟩ := exists_mask_eq_twoPow lm l
  obtain ⟨x, y, p, -, hbank, rfl, hoffset⟩ := exists_pixelOf b o k
  refine ⟨(x, y, p), ⟨hbank, hoffset, hk⟩, ?_⟩
  rintro ⟨x', y', p'⟩ ⟨hbank', hoffset', hmask'⟩
  obtain ⟨rfl, rfl, hp⟩ := pixel_unique p'.isLt p.isLt (hbank'.trans hbank.symm)
    (lm.distinct _ _ (hmask'.trans hk.symm)) (hoffset'.trans hoffset.symm)
  rw [Fin.ext hp]

/-- Settles O31: the pixel the inverse map names has its plane's bit in the cell given. -/
theorem inverseMapFindsThePixel : Obligations.InverseMapFindsThePixel := by
  intro b o k l s _
  obtain ⟨x, y, p, hpixel, hbank, hgroup, hoffset⟩ := exists_pixelOf b o k
  refine ⟨x, y, p, hpixel, hbank, hgroup, hoffset, ?_⟩
  rw [readPixel_bit, hbank, hoffset, cellIndex]

end Sys2Proof

/-! SUPPORT. The scan engine's cycle under turns of any kind, and the statements of spec/42_scan_timing_fsm.md settled
from it. -/

namespace Sys2Proof.Machine

/-! ### The step at a scan turn and at a tick -/

theorem step_of_scan {s : State} (hu : s.takeTurn.1 = .scan) :
    step s = .next (observeLines s (scanTurn s.takeTurn.2)) := step_of_turn (by rw [hu]; rfl)

theorem step_of_tick {s : State} (hu : s.takeTurn.1 = .tick) :
    step s = .next (observeLines s (acceptTick s.takeTurn.2)) := step_of_turn (by rw [hu]; rfl)

/-- While no line changes and `lat` is 0, the panel holds (R206, R207). -/
theorem Panel.observe_same (p : Panel) {o : Lines} (hlat : o.lat = false) : p.observe o o = p := by
  simp [Panel.observe, hlat]

/-- Lines the panel sees unchanged: it may load its latches, and only while `lat` is 1. -/
theorem observeLines_of_sameOut {s t : State} (hout : t.out = s.out) :
    ∃ p, observeLines s t = { t with panel := p } ∧ (s.out.lat = false → p = s.panel) :=
  ⟨s.panel.observe s.out t.out, rfl, fun hlat => by rw [hout, Panel.observe_same _ hlat]⟩

/-- A scan turn answers the state its phase leaves, but for the panel. -/
theorem step_of_phase {s t : State} (hu : s.takeTurn.1 = .scan) (ht : scanTurn s.takeTurn.2 = t) :
    ∃ p, step s = .next { t with panel := p } :=
  ⟨_, (step_of_scan hu).trans (by rw [ht]; rfl)⟩

/-- The same of a phase that sets lines and moves on. -/
theorem step_of_linePhase {s : State} {o : Lines} {f : Fsm} (hu : s.takeTurn.1 = .scan)
    (ht : scanTurn s.takeTurn.2 = (s.takeTurn.2.setOut o).setFsm f) :
    ∃ p, step s = .next { s.takeTurn.2 with out := o, fsm := f, panel := p } := step_of_phase hu ht

/-- The cursor's advance in the arithmetic of R182. -/
theorem bank_add_one (b : Bank) : b + 1 = BitVec.ofNat 2 ((b.toNat + 1) % 4) := by
  revert b
  decide

/-- R176's last cell as the number 383. -/
theorem afterCell_eq (i : Fin 384) :
    afterCell i = if h : i.val < 383 then .data ⟨i.val + 1, Nat.succ_lt_succ h⟩ else .blank := by
  by_cases h : i.val < 383
  · rw [dif_pos h, afterCell, dif_pos (Nat.succ_lt_succ h)]
  · rw [dif_neg h, afterCell, dif_neg (by omega)]

/-- R182: no other phase than ADVANCE writes the bank cursor. -/
theorem scanTurn_bank_of_ne_advance {s : State} (hf : s.fsm ≠ .advance) : (scanTurn s).bank = s.bank := by
  cases hphase : s.fsm <;> simp_all [scanTurn]

/-- The states of the invariant have a host turn: no meaning stops in them. -/
theorem State.HostInv.exists_hostTurn {s : State} (h : s.HostInv) : ∃ t, hostTurn s = .next t := by
  cases hport : s.host with
  | busy i k written =>
    obtain ⟨hwf, hk⟩ := h.busy hport
    obtain ⟨t, -, ht, -⟩ := exec_busy hport hwf hk
    exact ⟨t, (hostTurn_of_busy hport).trans ht⟩
  | ready =>
    cases hc : s.commands with
    | nil => exact ⟨s, hostTurn_of_noWord hport hc⟩
    | cons w rest =>
      rw [hostTurn_of_word hport hc]
      cases hd : decode w with
      | error r => exact ⟨_, presentWord_of_error hd _⟩
      | ok i =>
        rw [presentWord_of_ok hd]
        by_cases hm : 0 < microSteps i
        · exact ⟨_, exec_accept (s := s.setCommands rest) hport (decode_wellFormed hd) hm⟩
        · cases i with
          | encc r g bl => exact ⟨_, exec_encc_ready (s := s.setCommands rest) hport⟩
          | _ => simp [microSteps] at hm

/-- No step of a state that meets the invariant stops. -/
theorem State.Inv.exists_step {s : State} (h : s.Inv) : ∃ t, step s = .next t := by
  obtain ⟨-, hhost, -⟩ := h.takeTurn
  cases hu : s.takeTurn.1 with
  | host =>
    obtain ⟨t, ht⟩ := hhost.exists_hostTurn
    exact ⟨_, step_of_turn (by rw [hu]; exact ht)⟩
  | scan => exact ⟨_, step_of_scan hu⟩
  | tick => exact ⟨_, step_of_tick hu⟩

/-! ### The turns still to come -/

/-- The turn `n` steps ahead: a listed one or, past the list, a free choice. -/
def State.turnAhead (s : State) (n : Nat) : Turn :=
  s.turns.getD n (Config.nextTurn (s.draws + (n - s.turns.length)))

theorem State.turnAhead_zero (s : State) : s.turnAhead 0 = s.takeTurn.1 := by
  cases h : s.turns <;> simp [State.turnAhead, State.takeTurn, h]

theorem State.turnAhead_takeTurn (s : State) (n : Nat) : s.takeTurn.2.turnAhead n = s.turnAhead (n + 1) := by
  cases h : s.turns <;> simp [State.turnAhead, State.takeTurn, h, Nat.add_assoc, Nat.add_comm 1]

/-- A host turn leaves the count of free choices. -/
theorem hostTurn_draws {s t : State} (h : hostTurn s = .next t) : t.draws = s.draws := by
  obtain ⟨-, -, rfl⟩ | ⟨w, rest, i, -, -, -, he⟩ | ⟨w, rest, r, -, -, -, rfl⟩ | ⟨i, k, written, -, he⟩ :=
    hostTurn_cases h
  · rfl
  · obtain ⟨-, -, -, -, hdraws⟩ := exec_sameElsewhere he
    exact hdraws
  · rfl
  · obtain ⟨-, -, -, -, hdraws⟩ := exec_sameElsewhere he
    exact hdraws

/-- A step takes one turn, whichever agent moves. -/
theorem step_turnAhead {s t : State} (h : step s = .next t) (n : Nat) : t.turnAhead n = s.turnAhead (n + 1) := by
  rw [← State.turnAhead_takeTurn]
  obtain ⟨-, t', ht, rfl⟩ | ⟨-, rfl⟩ | ⟨-, rfl⟩ := step_next_cases h
  · simp [State.turnAhead, hostTurn_turns ht, hostTurn_draws ht]
  · simp [State.turnAhead]
  · simp [State.turnAhead]

/-! ### IDLE, until a tick comes -/

/-- In IDLE a tick starts a cycle, and nothing else leaves IDLE (R170). -/
theorem step_of_idle {s t : State} (hf : s.fsm = .idle) (h : step s = .next t) :
    t.fsm = if s.takeTurn.1 = .tick then .data 0 else .idle := by
  obtain ⟨hu, t', ht, rfl⟩ | ⟨hu, rfl⟩ | ⟨hu, rfl⟩ := step_next_cases h
  · obtain ⟨⟨-, -, hfsm⟩, -⟩ := hostTurn_scanSide ht
    simp [hu, hfsm, hf]
  · simp [hu, scanTurn, hf]
  · simp [hu, acceptTick, hf]

/-- With a tick `n` turns ahead, an idle scan engine is in DATA(0) within `n + 1` steps. -/
theorem run_toFirstTick {n : Nat} {s : State} (hs : s.Inv) (hf : s.fsm = .idle) (htick : s.turnAhead n = .tick) :
    ∃ m t, m ≤ n + 1 ∧ run m s = .next t ∧ t.fsm = .data 0 := by
  induction n generalizing s with
  | zero =>
    obtain ⟨t, ht⟩ := hs.exists_step
    exact ⟨1, t, le_rfl, run_succ_of_step ht, by rw [step_of_idle hf ht, ← State.turnAhead_zero, if_pos htick]⟩
  | succ n ih =>
    obtain ⟨s₁, hstep⟩ := hs.exists_step
    have hf₁ := step_of_idle hf hstep
    split at hf₁
    · exact ⟨1, s₁, by omega, run_succ_of_step hstep, hf₁⟩
    · have hinv := stepKeepsTheInvariant s s₁ hs hstep
      obtain ⟨m, t, hm, hrun, ht⟩ := ih hinv hf₁ ((step_turnAhead hstep n).trans htick)
      exact ⟨m + 1, t, by omega, (run_succ_of_step hstep).trans hrun, ht⟩

/-! ### Scan turns one after the other -/

/-- A scan turn with the panel's reaction. -/
def State.scanStep (s : State) : State := observeLines s (scanTurn s)

theorem State.scanStep_setTurns (s : State) (ts : List Turn) : (s.setTurns ts).scanStep = s.scanStep.setTurns ts := by
  cases hf : s.fsm <;> simp only [State.scanStep, scanTurn, State.setTurns_fsm, hf] <;> rfl

theorem State.iterate_scanStep_setTurns (n : Nat) (s : State) (ts : List Turn) :
    State.scanStep^[n] (s.setTurns ts) = (State.scanStep^[n] s).setTurns ts :=
  (Function.Semiconj.iterate_right (f := (State.setTurns · ts)) (fun s => (s.scanStep_setTurns ts).symm) n s).symm

/-- The turns listed are not of the host's side. -/
theorem State.sameHostSide.setTurns_right {s t : State} (h : s.sameHostSide t) (ts : List Turn) :
    s.sameHostSide (t.setTurns ts) := h

theorem State.sameHostSide_iterate_scanStep (n : Nat) (s : State) : s.sameHostSide (State.scanStep^[n] s) := by
  induction n generalizing s with
  | zero => exact ⟨rfl, rfl, rfl, rfl, rfl⟩
  | succ n ih =>
    have hfirst : s.sameHostSide s.scanStep := by simp [State.sameHostSide, State.scanStep]
    exact hfirst.trans (ih s.scanStep)

/-- So many scan turns listed are so many scan steps. -/
theorem run_scanTurns {n : Nat} {s : State} {rest : List Turn} (h : s.turns = List.replicate n .scan ++ rest) :
    run n s = .next ((State.scanStep^[n] s).setTurns rest) := by
  induction n generalizing s with
  | zero => simp [State.setTurns, ← show s.turns = rest from h]
  | succ n ih =>
    have htake : s.takeTurn = (.scan, s.setTurns (List.replicate n .scan ++ rest)) := State.takeTurn_cons h
    have hstep : step s = .next (s.scanStep.setTurns (List.replicate n .scan ++ rest)) := by
      rw [step_of_scan (by rw [htake]), htake, ← State.scanStep_setTurns]
      rfl
    rw [run_succ_of_step hstep, ih rfl, State.iterate_scanStep_setTurns]
    rfl

/-- `s` with cell `i` of its bank shifted into the panel (R174 to R176, R206). -/
def State.streamCell (s : State) (i : Fin 384) : State :=
  ((s.setOut { s.out with data := s.cell (cellIndex s.bank i.val), clk := true }).setFsm (afterCell i)).setPanel
    (s.panel.observe { s.out with clk := false }
      { s.out with data := s.cell (cellIndex s.bank i.val), clk := true })

/-- Of the three changes of the lines that stream a cell the panel shifts at the last alone (R206). -/
theorem Panel.observe_streamCell (p : Panel) (o : Lines) (d : Byte) :
    ((p.observe o { o with data := d }).observe { o with data := d } { o with data := d, clk := false }).observe
      { o with data := d, clk := false } { o with data := d, clk := true } =
    p.observe { o with clk := false } { o with data := d, clk := true } := by
  cases o.lat <;> simp [Panel.observe]

/-- DATA, CLKLO and CLKHI stream one cell. -/
theorem iterate_scanStep_streamCell {s : State} {i : Fin 384} (hf : s.fsm = .data i) :
    State.scanStep^[3] s = s.streamCell i := by
  simp [Function.iterate_succ_apply, State.scanStep, scanTurn, hf, observeLines, Panel.observe_streamCell,
    State.streamCell, scanData, scanClkLo, scanClkHi, State.setOut, State.setFsm, State.setPanel]

/-- `s` at the end of its cycle, the bank just streamed on display (R177 to R183, R207). -/
def State.finishCycle (s : State) : State :=
  (((s.setBank (s.bank + 1)).setOut { s.out with
    lat := false, blank := false, a0 := s.bank.getLsbD 0, a1 := s.bank.getLsbD 1, hb := !s.out.hb }).setFsm
    .idle).setPanel { s.panel with lt := s.panel.sr }

/-- While `clk` holds, the panel does no more than load its latches. -/
theorem Panel.observe_of_sameClk (p : Panel) {o o' : Lines} (hclk : o'.clk = o.clk) :
    p.observe o o' = { p with lt := if o'.lat then p.sr else p.lt } := by
  simp [Panel.observe, hclk]

/-- The seven phases after the last cell finish the cycle. -/
theorem iterate_scanStep_finishCycle {s : State} (hf : s.fsm = .blank) : State.scanStep^[7] s = s.finishCycle := by
  simp [Function.iterate_succ_apply, State.scanStep, scanTurn, hf, observeLines, Panel.observe_of_sameClk,
    State.finishCycle, scanBlank, scanAddr, scanLatHi, scanLatLo, scanUnblank, scanAdvance, scanHeart, endCycle,
    State.setOut, State.setFsm, State.setPanel, State.setBank]

/-- From DATA(383 - n) the last `n + 1` cells of the bank are streamed, cell 383 last. -/
theorem iterate_scanStep_streamBank {n : Nat} (hn : n < 384) {s : State} (hf : s.fsm = .data ⟨383 - n, by omega⟩) :
    (State.scanStep^[3 * (n + 1)] s).fsm = .blank ∧ (State.scanStep^[3 * (n + 1)] s).bank = s.bank ∧
      (State.scanStep^[3 * (n + 1)] s).out = { s.out with data := s.cell (cellIndex s.bank 383), clk := true } := by
  induction n generalizing s with
  | zero =>
    rw [iterate_scanStep_streamCell hf]
    exact ⟨rfl, rfl, rfl⟩
  | succ n ih =>
    have hnext : (s.streamCell ⟨383 - (n + 1), by omega⟩).fsm = .data ⟨383 - n, by omega⟩ := by
      have hlt : 383 - (n + 1) < 383 := by omega
      refine (afterCell_eq _).trans ((dif_pos hlt).trans ?_)
      simp only [Fsm.data.injEq, Fin.mk.injEq]
      omega
    rw [show 3 * (n + 1 + 1) = 3 * (n + 1) + 3 from rfl, Function.iterate_add_apply, iterate_scanStep_streamCell hf]
    exact ih (by omega) hnext

/-- A tick in IDLE, with the panel's reaction (R171). -/
def State.startCycle (s : State) : State := observeLines s (s.setFsm (.data 0))

/-- A tick and so many scan turns listed are the cycle's start and so many scan steps. -/
theorem run_tickThenScans {n : Nat} {s : State} {rest : List Turn} (hf : s.fsm = .idle)
    (h : s.turns = .tick :: List.replicate n .scan ++ rest) :
    run (n + 1) s = .next ((State.scanStep^[n] s.startCycle).setTurns rest) := by
  have htake : s.takeTurn = (.tick, s.setTurns (List.replicate n .scan ++ rest)) := State.takeTurn_cons h
  have hstep : step s = .next (s.startCycle.setTurns (List.replicate n .scan ++ rest)) := by
    rw [step_of_tick (by rw [htake]), acceptTick_idle (by simpa using hf), htake]
    rfl
  rw [run_succ_of_step hstep, run_scanTurns rfl, State.iterate_scanStep_setTurns]
  rfl

/-- The state after an undisturbed cycle from `s` (R184). Irreducible, lest a comparison of states run its steps. -/
@[irreducible] def State.scanCycle (s : State) : State := State.scanStep^[1159] s.startCycle

/-- An undisturbed cycle's turns run it. -/
theorem run_scanCycle {s : State} {rest : List Turn} (hf : s.fsm = .idle) (h : s.turns = cycleTurns ++ rest) :
    run 1160 s = .next (s.scanCycle.setTurns rest) := by
  unfold State.scanCycle
  exact run_tickThenScans hf h

theorem State.sameHostSide_scanCycle (s : State) : s.sameHostSide s.scanCycle := by
  have hstart : s.sameHostSide s.startCycle := ⟨rfl, rfl, rfl, rfl, rfl⟩
  unfold State.scanCycle
  exact hstart.trans (State.sameHostSide_iterate_scanStep 1159 s.startCycle)

/-- What an undisturbed cycle leaves of the scan engine's state (R184, R186, R191). -/
theorem State.scanCycle_scanSide (s : State) : s.scanCycle.fsm = .idle ∧ s.scanCycle.bank = s.bank + 1 ∧
    s.scanCycle.out = {
      data := s.cell (cellIndex s.bank 383), clk := true, lat := false, blank := false,
      a0 := s.bank.getLsbD 0, a1 := s.bank.getLsbD 1, hb := !s.out.hb } := by
  obtain ⟨hfsm, hbank, hout⟩ := iterate_scanStep_streamBank (n := 383) (by omega) (s := s.startCycle) rfl
  have hcycle : s.scanCycle = (State.scanStep^[3 * (383 + 1)] s.startCycle).finishCycle := by
    unfold State.scanCycle
    exact (Function.iterate_add_apply State.scanStep 7 (3 * (383 + 1)) _).trans (iterate_scanStep_finishCycle hfsm)
  rw [hcycle]
  generalize State.scanStep^[3 * (383 + 1)] s.startCycle = t at hbank hout
  simp [State.finishCycle, State.startCycle, hbank, hout]

/-! ### A cycle with host turns inside -/

/-- `s` and `t` stand at the same point of the scan: they agree on the scan engine's state but for the data lines, whose
levels depend on what the host has written by then. -/
def State.sameScanPoint (s t : State) : Prop :=
  t.bank = s.bank ∧ t.fsm = s.fsm ∧ ∃ d, t.out = { s.out with data := d }

theorem State.sameScanPoint.scanTurn {s s' : State} (h : s.sameScanPoint s') :
    (scanTurn s).sameScanPoint (scanTurn s') := by
  obtain ⟨hbank, hfsm, d, hout⟩ := h
  cases hf : s.fsm <;> simp [State.sameScanPoint, Machine.scanTurn, hfsm, hf, hbank, hout]

theorem State.sameScanPoint.acceptTick {s s' : State} (h : s.sameScanPoint s') :
    (acceptTick s).sameScanPoint (acceptTick s') := by
  obtain ⟨hbank, hfsm, d, hout⟩ := h
  cases hf : s.fsm <;> simp [State.sameScanPoint, Machine.acceptTick, hfsm, hf, hbank, hout]

theorem State.sameScanPoint.step {s s' t t' : State} (h : s.sameScanPoint s') (hu : s'.takeTurn.1 = s.takeTurn.1)
    (hne : s.takeTurn.1 ≠ .host) (ht : Machine.step s = .next t) (ht' : Machine.step s' = .next t') :
    t.sameScanPoint t' := by
  have htaken : s.takeTurn.2.sameScanPoint s'.takeTurn.2 := by simpa [State.sameScanPoint] using h
  cases hs : s.takeTurn.1 with
  | host => exact absurd hs hne
  | scan =>
    rw [step_of_scan hs] at ht
    rw [step_of_scan (hu.trans hs)] at ht'
    cases ht
    cases ht'
    exact htaken.scanTurn
  | tick =>
    rw [step_of_tick hs] at ht
    rw [step_of_tick (hu.trans hs)] at ht'
    cases ht
    cases ht'
    exact htaken.acceptTick

/-- A host turn stands still in the scan. -/
theorem State.sameScanPoint.step_host {s s' t : State} (h : s'.sameScanPoint s) (hu : s.takeTurn.1 = .host)
    (ht : Machine.step s = .next t) : s'.sameScanPoint t := by
  obtain ⟨t', ht', rfl⟩ := step_next ht
  rw [hu] at ht'
  obtain ⟨⟨hbank, hout, hfsm⟩, -⟩ := hostTurn_scanSide ht'
  simpa [State.sameScanPoint, hbank, hout, hfsm] using h

/-- A run under any turns follows the scan of the same turns without the host's (R172). -/
theorem run_followsScan {turns rest : List Turn} {s s' t' : State} (hs : s.Inv) (h : s'.sameScanPoint s)
    (hturns : s.turns = turns ++ rest) (hturns' : s'.turns = turns.filter (fun u => decide (u ≠ .host)))
    (hrun : run (turns.filter (fun u => decide (u ≠ .host))).length s' = .next t') :
    ∃ t, run turns.length s = .next t ∧ t.turns = rest ∧ t'.sameScanPoint t := by
  induction turns generalizing s s' with
  | nil =>
    cases hrun
    exact ⟨s, rfl, hturns, h⟩
  | cons u us ih =>
    obtain ⟨s₁, hstep⟩ := hs.exists_step
    have hinv := stepKeepsTheInvariant s s₁ hs hstep
    have hturns₁ := step_turns_of_cons hturns hstep
    have htake : s.takeTurn.1 = u := by rw [State.takeTurn_cons hturns]
    rw [List.length_cons, run_succ_of_step hstep]
    by_cases hu : u = .host
    · rw [List.filter_cons_of_neg (by simpa using hu)] at hturns' hrun
      exact ih hinv (h.step_host (htake.trans hu) hstep) hturns₁ hturns' hrun
    · rw [List.filter_cons_of_pos (by simpa using hu)] at hturns' hrun
      obtain ⟨s₂, hstep', hrun'⟩ := run_succ_next hrun
      have htake' : s'.takeTurn.1 = u := by rw [State.takeTurn_cons hturns']
      exact ih hinv (h.step (htake.trans htake'.symm) (htake' ▸ hu) hstep' hstep) hturns₁
        (step_turns_of_cons hturns' hstep') hrun'

end Sys2Proof.Machine

/-! ### The obligations -/

namespace Sys2Proof

open Machine

/-- Settles O39: the cycle's exact end state, read field by field. -/
theorem undisturbedCycle : Obligations.UndisturbedCycle := by
  intro s rest hf hturns
  obtain ⟨hfsm, hbank, hout⟩ := s.scanCycle_scanSide
  refine ⟨_, run_scanCycle hf hturns, hfsm, hbank, rfl, s.sameHostSide_scanCycle.setTurns_right rest, ?_⟩
  simp [hout, cellIndex]

/-- Settles O40: the run follows the undisturbed cycle of the same state, whose end the invariant's host turns do not
move. -/
theorem cycleUnderEveryInterleaving : Obligations.CycleUnderEveryInterleaving := by
  intro s turns rest hs hf hturns hfilter
  have hcycle : run 1160 (s.setTurns cycleTurns) = .next ((s.setTurns cycleTurns).scanCycle.setTurns []) :=
    run_scanCycle hf (List.append_nil _).symm
  have hlength : cycleTurns.length = 1160 := by rw [cycleTurns, List.length_cons, List.length_replicate]
  have hpoint : (s.setTurns cycleTurns).sameScanPoint s := ⟨rfl, rfl, s.out.data, rfl⟩
  obtain ⟨t, hrun, hrest, hbank, hfsm, d, hout⟩ := run_followsScan hs hpoint hturns hfilter.symm
    (by rw [hfilter, hlength]; exact hcycle)
  obtain ⟨hfsm', hbank', hout'⟩ := (s.setTurns cycleTurns).scanCycle_scanSide
  rw [State.setTurns_out, hout'] at hout
  exact ⟨t, hrun, hfsm.trans hfsm', hbank.trans hbank', address_of_bits (by rw [hout]; rfl) (by rw [hout]; rfl),
    by rw [hout], by rw [hout], by rw [hout], by rw [hout]; rfl, hrest⟩

/-- Settles O41, by induction on the cycles: each advances the bank by one and toggles the heartbeat (R185, R213). -/
theorem bankRoundRobin : Obligations.BankRoundRobin := by
  intro n
  induction n with
  | zero =>
    intro s rest hf hturns
    exact ⟨s, rfl, hf, by simpa using hturns, (Nat.mod_eq_of_lt s.bank.isLt).symm, by simp⟩
  | succ n ih =>
    intro s rest hf hturns
    rw [List.replicate_succ, List.flatten_cons, List.append_assoc] at hturns
    have hcycle := run_scanCycle hf hturns
    obtain ⟨hfsm₁, hbank₁, hout₁⟩ := s.scanCycle_scanSide
    obtain ⟨t, hrun, hfsm, hrest, hbank, hhb⟩ :=
      ih (s.scanCycle.setTurns ((List.replicate n cycleTurns).flatten ++ rest)) rest hfsm₁ rfl
    refine ⟨t, ?_, hfsm, hrest, ?_, ?_⟩
    · rw [show 1160 * (n + 1) = 1160 + 1160 * n by omega, run_add hcycle, hrun]
    · rw [hbank, State.setTurns_bank, hbank₁]
      simp [Nat.add_comm n, Nat.add_assoc]
    · rw [hhb, State.setTurns_out, hout₁]
      obtain hn | hn := Nat.mod_two_eq_zero_or_one n <;> simp [hn, Nat.add_mod]

/-- Settles O36: of the three kinds of step only a scan turn touches the bank cursor, and there only ADVANCE. -/
theorem onlyAdvanceWritesTheBank : Obligations.OnlyAdvanceWritesTheBank := by
  refine ⟨fun s hu hf => ⟨_, step_of_scan hu, ?_⟩, fun s t h hne => ?_⟩
  · simp [scanTurn, hf, BitVec.toNat_add]
  · obtain ⟨-, t', ht, rfl⟩ | ⟨hu, rfl⟩ | ⟨-, rfl⟩ := step_next_cases h
    · obtain ⟨⟨hbank, -, -⟩, -⟩ := hostTurn_scanSide ht
      exact absurd hbank (by simpa using hne)
    · refine ⟨hu, by_contra fun hf => hne ?_⟩
      simpa using scanTurn_bank_of_ne_advance (s := s.takeTurn.2) (by simpa using hf)
    · simp at hne

/-- Settles O56: a listed tick stands less than the list's length ahead. -/
theorem listedTickStartsACycle : Obligations.ListedTickStartsACycle := by
  intro s hs hf hmem
  obtain ⟨n, hn, htick⟩ := List.mem_iff_getElem.1 hmem
  obtain ⟨m, t, hm, hrun, ht⟩ := run_toFirstTick hs hf (n := n) (by simp [State.turnAhead, hn, htick])
  exact ⟨m, t, hm.trans hn, hrun, ht⟩

/-- Settles O58: past the listed turns the free choices go on, and among them a tick is still to come. -/
theorem idleScanEngineStartsACycle : Obligations.IdleScanEngineStartsACycle := by
  intro s hs hf
  obtain ⟨m, hm, htick⟩ := nextTurn_fair s.draws
  have hahead : s.turnAhead (s.turns.length + (m - s.draws)) = .tick := by
    simp [State.turnAhead, Nat.add_sub_cancel' hm, htick]
  obtain ⟨n, t, -, hrun, ht⟩ := run_toFirstTick hs hf hahead
  exact ⟨n, t, hrun, ht⟩

/-- Settles O32: the tick moves `fsm`, and the lines the panel sees are the same. -/
theorem tickStartsACycle : Obligations.TickStartsACycle := by
  intro s hu hf
  obtain ⟨p, hp, hlat⟩ := observeLines_of_sameOut (s := s) (t := acceptTick s.takeTurn.2) (by simp)
  refine ⟨p, ?_, hlat⟩
  rw [step_of_tick hu, hp, acceptTick_idle (by simpa using hf)]
  rfl

/-- Settles O33: the agent leaves the state, and the lines the panel sees are the same. -/
theorem turnsWithNothingToDoChangeNothing : Obligations.TurnsWithNothingToDoChangeNothing := by
  intro s h
  obtain ⟨p, hp, hlat⟩ := observeLines_of_sameOut (s := s) (t := s.takeTurn.2) (by simp)
  refine ⟨p, ?_, hlat⟩
  obtain ⟨hu, hf⟩ | ⟨hu, hf⟩ := h
  · rw [step_of_tick hu, acceptTick_busy (by simpa using hf), hp]
  · rw [step_of_scan hu, show scanTurn s.takeTurn.2 = s.takeTurn.2 by simp [scanTurn, hf], hp]

/-- Settles O34, phase by phase. -/
theorem scanStreamsACell : Obligations.ScanStreamsACell := by
  intro s i hu
  refine ⟨fun hf => ?_, fun hf => ?_, fun hf => ?_⟩
  · exact step_of_linePhase hu (by simp [scanTurn, hf, scanData, cellIndex])
  · exact step_of_linePhase hu (by simp [scanTurn, hf, scanClkLo])
  · rw [← afterCell_eq]
    exact step_of_linePhase hu (by simp [scanTurn, hf, scanClkHi])

/-- Settles O35, phase by phase. -/
theorem scanHousekeeping : Obligations.ScanHousekeeping := by
  intro s hu
  refine ⟨fun hf => ?_, fun hf => ?_, fun hf => ?_, fun hf => ?_, fun hf => ?_, fun hf => ?_, fun hf => ?_⟩
  · exact step_of_linePhase hu (by simp [scanTurn, hf, scanBlank])
  · exact step_of_linePhase hu (by simp [scanTurn, hf, scanAddr])
  · exact step_of_linePhase hu (by simp [scanTurn, hf, scanLatHi])
  · exact step_of_linePhase hu (by simp [scanTurn, hf, scanLatLo])
  · exact step_of_linePhase hu (by simp [scanTurn, hf, scanUnblank])
  · rw [← bank_add_one]
    exact step_of_phase hu (t := (s.takeTurn.2.setBank (s.bank + 1)).setFsm .heart)
      (by simp [scanTurn, hf, scanAdvance])
  · exact step_of_linePhase hu (by simp [scanTurn, hf, scanHeart, endCycle])

/-- Settles O38: the phase a line changes in (R37) fixes the levels of the others (R188). -/
theorem lineChangesKeepTheOrder : Obligations.LineChangesKeepTheOrder := by
  intro s t hs h
  obtain ⟨hdata, hclk, hlat, hblank, haddress, -, hscan⟩ := linesChangeOnlyInTheirPhases s t h
  obtain ⟨-, -, hlines⟩ := hs
  unfold State.LinesInv at hlines
  refine ⟨fun hwhen => ⟨by_contra fun hne => ?_, by_contra fun hne => ?_⟩, fun hne => ?_, fun h0 h1 => ?_,
    fun h1 h0 => ?_⟩
  · obtain ⟨i, hf⟩ := hdata hne
    simp_all
  · obtain ⟨i, hf | hf⟩ := hclk hne <;> simp_all
  · have hf := haddress hne
    simp_all
  · obtain hf | hf := hlat (by simp [h0, h1]) <;> simp_all
  · rw [step_of_scan (hscan fun hout => by simp [hout, h1] at h0)] at h
    cases h
    obtain hf | hf := hblank (by rw [h0, h1]; decide)
    · simp [scanTurn, hf] at h0
    · rw [hf] at hlines
      obtain ⟨-, hlat', -, -, hpanel⟩ := hlines
      simp [scanTurn, hf, hlat', hpanel]

end Sys2Proof

/-! SUPPORT. What the panel's registers hold and what is lit, step by step and after a cycle, and the statements of
spec/43_output_shift_register.md settled from it. -/

namespace Sys2Proof.Machine

/-! ### The panel's registers -/

/-- Whoever moves, the panel reacts to the step's change of the lines and to nothing else (R206, R207). -/
theorem step_panel {s t : State} (h : step s = .next t) : t.panel = s.panel.observe s.out t.out := by
  obtain ⟨t', -, rfl⟩ := step_next h
  rfl

/-- A rising edge of `clk` shifts every stage, any other change of the lines none (R206). -/
theorem Panel.observe_stage (p : Panel) (o o' : Lines) (l : Fin 8) {k : Nat} (hk : k < 384) :
    (p.observe o o').sr[l].getLsbD k =
      if o.clk = false ∧ o'.clk = true then if k = 0 then o'.data.getLsbD l.val else p.sr[l].getLsbD (k - 1)
      else p.sr[l].getLsbD k := by
  by_cases hedge : o.clk = false ∧ o'.clk = true
  · rw [if_pos hedge, ← shiftIn_stage _ _ _ _ hk]
    simp [hedge]
  · rw [if_neg hedge]
    simp [hedge]

/-- A streamed cell enters at stage 0 and moves what the registers held on by one. -/
theorem State.streamCell_stage (s : State) (i : Fin 384) (l : Fin 8) {k : Nat} (hk : k < 384) :
    (s.streamCell i).panel.sr[l].getLsbD k =
      if k = 0 then (s.cell (cellIndex s.bank i.val)).getLsbD l.val else s.panel.sr[l].getLsbD (k - 1) :=
  (Panel.observe_stage _ _ _ l hk).trans (if_pos ⟨rfl, rfl⟩)

/-- After cell `383 - (n + 1)` the scan comes to cell `383 - n` (R176). -/
theorem afterCell_of_remaining {n : Nat} (hn : n + 1 < 384) :
    afterCell ⟨383 - (n + 1), by omega⟩ = .data ⟨383 - n, by omega⟩ := by
  rw [afterCell, dif_pos (by simp only; omega)]
  simp only [Fsm.data.injEq, Fin.mk.injEq]
  omega

/-- The last `n + 1` cells of the bank, streamed from DATA(383 - n), fill the first `n + 1` stages, cell 383 at stage 0;
what the registers held before has moved on behind them. -/
theorem iterate_scanStep_streamBank_stage {n : Nat} (hn : n < 384) {s : State}
    (hf : s.fsm = .data ⟨383 - n, by omega⟩) (l : Fin 8) {k : Nat} (hk : k < 384) :
    (State.scanStep^[3 * (n + 1)] s).panel.sr[l].getLsbD k =
      if k ≤ n then (s.cell (cellIndex s.bank (383 - k))).getLsbD l.val else s.panel.sr[l].getLsbD (k - (n + 1)) := by
  induction n generalizing s with
  | zero =>
    rw [iterate_scanStep_streamCell hf, s.streamCell_stage _ l hk]
    by_cases h0 : k = 0 <;> simp [h0]
  | succ n ih =>
    rw [show 3 * (n + 1 + 1) = 3 * (n + 1) + 3 from rfl, Function.iterate_add_apply, iterate_scanStep_streamCell hf,
      ih (by omega) (afterCell_of_remaining hn)]
    obtain hlt | rfl | hgt := Nat.lt_trichotomy k (n + 1)
    · rw [if_pos (by omega), if_pos (by omega)]
      rfl
    · rw [if_neg (by omega), if_pos le_rfl, s.streamCell_stage _ l (by omega), if_pos (by omega)]
    · rw [if_neg (by omega), if_neg (by omega), s.streamCell_stage _ l (by omega), if_neg (by omega)]
      rfl

/-! ### The panel after a cycle -/

/-- An undisturbed cycle streams the 384 cells, then runs the seven phases that end it (R184). -/
theorem State.scanCycle_eq_finishCycle (s : State) :
    s.scanCycle = (State.scanStep^[3 * (383 + 1)] s.startCycle).finishCycle := by
  obtain ⟨hfsm, -, -⟩ := iterate_scanStep_streamBank (n := 383) (by omega) (s := s.startCycle) rfl
  unfold State.scanCycle
  exact (Function.iterate_add_apply State.scanStep 7 (3 * (383 + 1)) _).trans (iterate_scanStep_finishCycle hfsm)

@[simp] theorem State.finishCycle_panel (s : State) : s.finishCycle.panel = { s.panel with lt := s.panel.sr } := rfl

/-- A cycle ends with the latches loaded from the shift registers (R207, R209). -/
theorem State.scanCycle_latches (s : State) : s.scanCycle.panel.lt = s.scanCycle.panel.sr := by
  rw [s.scanCycle_eq_finishCycle, State.finishCycle_panel]

/-- After a cycle stage `383 - i` of a line holds the line's bit of cell `i` of the bank streamed (R209). -/
theorem State.scanCycle_stage (s : State) (l : Fin 8) {i : Nat} (hi : i < 384) :
    s.scanCycle.panel.sr[l].getLsbD (383 - i) = (s.cell (cellIndex s.bank i)).getLsbD l.val := by
  have hstream := iterate_scanStep_streamBank_stage (n := 383) (by omega) (s := s.startCycle) rfl l
    (k := 383 - i) (by omega)
  rw [if_pos (by omega), show 383 - (383 - i) = i by omega] at hstream
  rw [s.scanCycle_eq_finishCycle, State.finishCycle_panel, hstream]
  rfl

/-! ### What is lit -/

/-- The number on the bank-address lines (R202). -/
theorem Lines.toNat_address (o : Lines) : o.address.toNat = 2 * o.a1.toNat + o.a0.toNat := by
  have h : ∀ b1 b0 : Bool, (BitVec.ofBool b1 ++ BitVec.ofBool b0 : BitVec 2).toNat = 2 * b1.toNat + b0.toNat := by decide
  exact h o.a1 o.a0

theorem displayedRowPair_eq_some {s : State} {a : Bank} :
    displayedRowPair s = some a ↔ s.out.blank = false ∧ s.out.address = a := by
  simp [displayedRowPair]

/-- In the row pair displayed a stage shows its latch. -/
theorem stageLit_of_displayed {s : State} {a : Bank} (h : displayedRowPair s = some a) (l : Fin 8) (k : Fin 384) :
    stageLit s a l k = s.panel.lt[l].getLsbD k.val := by simp [stageLit, h]

/-- In every other row pair, and while blanked, no stage is lit. -/
theorem stageLit_of_not_displayed {s : State} {a : Bank} (h : displayedRowPair s ≠ some a) (l : Fin 8) (k : Fin 384) :
    stageLit s a l k = false := by simp [stageLit, h]

/-- After a cycle the row pair of the bank streamed is on display (R210, R211). -/
theorem State.displayedRowPair_scanCycle (s : State) : displayedRowPair s.scanCycle = some s.bank := by
  obtain ⟨-, -, hout⟩ := s.scanCycle_scanSide
  rw [displayedRowPair_eq_some, hout]
  exact ⟨rfl, address_of_bits rfl rfl⟩

end Sys2Proof.Machine

/-! ### The obligations -/

namespace Sys2Proof

open Machine

/-- Settles O44: by what each stage and the latches hold at the cycle's end. -/
theorem panelHoldsTheStreamedBank : Obligations.PanelHoldsTheStreamedBank := by
  intro s rest hf hturns
  exact ⟨_, run_scanCycle hf hturns, s.scanCycle_latches, fun l i => s.scanCycle_stage l i.isLt⟩

/-- Settles O45: the stage a pixel's plane is streamed to holds its bit, and only the bank's row pair is on display. -/
theorem cycleDisplaysThePixelsOfItsBank : Obligations.CycleDisplaysThePixelsOfItsBank := by
  intro s rest hf hturns
  have hshown : displayedRowPair (s.scanCycle.setTurns rest) = some s.bank := s.displayedRowPair_scanCycle
  refine ⟨_, run_scanCycle hf hturns, fun x y p l k hbank _ hk => ?_, fun a l k ha => ?_⟩
  · rw [stageLit_of_displayed hshown, State.setTurns_panel, s.scanCycle_latches, hk,
      s.scanCycle_stage l (planeOffset_lt x y p.isLt), readPixel_bit, hbank]
  · exact stageLit_of_not_displayed (by simpa [hshown] using ha.symm) l k

/-- Settles O42: the step's panel is the panel's reaction to the lines, read stage by stage. -/
theorem panelShiftsAndLatches : Obligations.PanelShiftsAndLatches := by
  intro s t h
  rw [step_panel h]
  exact ⟨fun l k => s.panel.observe_stage s.out t.out l k.isLt, fun hlat => by simp [hlat], fun hlat => by simp [hlat]⟩

/-- Settles O43: the row pair displayed is the one whose number stands on the address lines. -/
theorem displayShowsTheLatchOfOneRowPair : Obligations.DisplayShowsTheLatchOfOneRowPair := by
  refine ⟨fun s a l k => ?_, fun s a led => by simp [ledLit]⟩
  have haddress : s.out.address = a ↔ a.toNat = 2 * s.out.a1.toNat + s.out.a0.toNat := by
    rw [← Lines.toNat_address, BitVec.toNat_inj, eq_comm]
  rw [stageLit, Bool.and_eq_true, decide_eq_true_eq, displayedRowPair_eq_some, haddress, and_assoc]

/-- Settles O50: reset lists no cell, and it blanks the output (R212). -/
theorem resetContentsAreFreeValues : Obligations.ResetContentsAreFreeValues :=
  ⟨fun _ => rfl, rfl, fun _ => stageLit_of_not_displayed (by simp [displayedRowPair_eq_some, State.reset, Lines.reset])⟩

end Sys2Proof

/-! SUPPORT. Runs of the invariant's states, the refusal of a word, and the statements of spec/60_exceptions.md settled from
them. -/

namespace Sys2Proof.Machine

/-! ### Runs of the invariant's states -/

/-- Words and turns loaded from outside keep the invariant: it is about nothing of the environment's. -/
theorem State.Inv.withInputs {s : State} (h : s.Inv) (words : List CommandWord) (turns : List Turn) :
    ((s.withCommands words).withTurns turns).Inv := by
  obtain ⟨hwf, hhost, hlines⟩ := h
  exact ⟨hwf, hhost.congr rfl rfl, hlines⟩

/-- From a state that meets the invariant a run of any length goes through, and keeps the invariant. -/
theorem State.Inv.exists_run {s : State} (h : s.Inv) (n : Nat) : ∃ t, run n s = .next t ∧ t.Inv := by
  induction n generalizing s with
  | zero => exact ⟨s, rfl, h⟩
  | succ n ih =>
    obtain ⟨s₁, hstep⟩ := h.exists_step
    rw [run_succ_of_step hstep]
    exact ih (stepKeepsTheInvariant s s₁ h hstep)

/-- After reset the port is ready and the lines have IDLE's levels, blanked (R45). -/
theorem State.inv_reset : State.reset.Inv := by
  refine ⟨rfl, hostInv_of_ready rfl, ?_⟩
  simp [State.LinesInv, State.ShowsLastBank, State.reset, Lines.reset]

/-! ### The refusal of a word -/

/-- At a host turn a ready port that takes a reserved word refuses it (R232). -/
theorem step_of_reservedWord {s : State} {w : CommandWord} {rest : List CommandWord} {r : Reserved}
    (hu : s.takeTurn.1 = .host) (hr : s.host = .ready) (hc : s.commands = w :: rest) (hd : decode w = .error r) :
    step s = .next (observeLines s (refuseWord (s.takeTurn.2.setCommands rest))) := by
  rw [step_of_word hu hr hc, presentWord_of_error hd]
  rfl

/-- No host turn clears the refusal mark: the one word that touches it sets it (R42 (d), R232). -/
theorem hostTurn_keepsMark {s t : State} (hs : s.refused = true) (h : hostTurn s = .next t) : t.refused = true := by
  obtain hkept | ⟨hr, w, rest, r, hc, hd⟩ := hostTurn_refused h
  · exact hkept.trans hs
  · rw [hostTurn_of_word hr hc, presentWord_of_error hd] at h
    cases h
    rfl

/-- No step clears the refusal mark (R42 (d), R232). -/
theorem step_keepsMark {s t : State} (hs : s.refused = true) (h : step s = .next t) : t.refused = true := by
  obtain ⟨-, t', ht, rfl⟩ | ⟨-, rfl⟩ | ⟨-, rfl⟩ := step_next_cases h
  · exact hostTurn_keepsMark (t := t') (by simpa using hs) ht
  · simpa using hs
  · simpa using hs

end Sys2Proof.Machine

/-! ### The obligations -/

namespace Sys2Proof

open Machine

/-- Settles O53: a command in progress has a micro-step left, a word taken is a well-formed command or is refused, and every
phase of the scan has its turn. -/
theorem invariantStatesNeverStop : Obligations.InvariantStatesNeverStop :=
  fun _ hs => hs.exists_step

/-- Settles O54, by induction on the run: the words and turns loaded keep reset's invariant, and every step goes through and
keeps it. -/
theorem runsFromResetNeverStop : Obligations.RunsFromResetNeverStop :=
  fun words turns n => (State.inv_reset.withInputs words turns).exists_run n

/-- Settles O14: the refusal sets the mark and nothing else, under lines the panel sees unchanged, and no turn clears it. -/
theorem reservedWordSetsTheStickyMark : Obligations.ReservedWordSetsTheStickyMark := by
  refine ⟨fun s w rest r hu hr hc hd => ?_, fun s t => step_keepsMark⟩
  have hout : (refuseWord (s.takeTurn.2.setCommands rest)).out = s.out := by simp
  refine ⟨_, step_of_reservedWord hu hr hc hd, rfl, rfl, ?_, ?_, ?_, rfl, ?_, fun hlat => ?_⟩
  · simp
  · simp
  · simp [State.sameScanSide]
  · simp
  · rw [observeLines_panel, hout, Panel.observe_same _ hlat]

/-- Settles O47: a host turn keeps the scan engine's state, and so does the taking of the turn. -/
theorem hostNeverWritesTheScanSide : Obligations.HostNeverWritesTheScanSide := by
  intro s t h hu
  obtain ⟨-, t', ht, rfl⟩ | ⟨hu', -⟩ | ⟨hu', -⟩ := step_next_cases h
  · obtain ⟨hscan, -⟩ := hostTurn_scanSide ht
    simpa [State.sameScanSide] using hscan
  · simp [hu] at hu'
  · simp [hu] at hu'

end Sys2Proof

/-! SUPPORT. The table's rows and the reserved offsets of RDCELL, when a command answers a next state, and the remaining
statements settled from them. -/

namespace Sys2Proof

/-- The encoder's word of every command matches the command's row of the opcode table. -/
theorem encode_matches_tableRow (i : Instr) : Laws.TableRow.Statement i := by
  cases i with
  | fill v => exact Laws.TableRow.fill v
  | setpx x y c => exact Laws.TableRow.setpx x y c
  | encc r g bl => exact Laws.TableRow.encc r g bl
  | rdcell bk off => exact Laws.TableRow.rdcell bk off

/-- A word of RDCELL's format is reserved by its offset when no cell has that offset (R97 (c)). -/
theorem decode_of_offsetRange {bk : Bank} {off : OffsetField} {w : CommandWord} (h : (Instr.rdcell bk off).hasFormat w)
    (ho : ¬ off.toNat < 384) : decode w = .error (.offsetRange off) := by
  obtain ⟨rfl, hz₁, -, hz₂, hop⟩ := h
  rw [decode_of_opcode_rdcell hop, decodeRdcell, if_pos ⟨hz₂, hz₁⟩, if_neg ho]

end Sys2Proof

namespace Sys2Proof.Machine

/-- A ready port answers every command: it accepts it or, for an RDCELL of no cell, refuses it (R43, log 8). -/
theorem exists_exec_of_ready {i : Instr} {s : State} (hr : s.host = .ready) : ∃ t, exec i s = .next t := by
  cases i with
  | fill v => exact ⟨_, exec_accept hr rfl (by simp [microSteps])⟩
  | setpx x y c => exact ⟨_, exec_accept hr rfl (by simp [microSteps])⟩
  | encc r g bl => exact ⟨_, exec_encc_ready hr⟩
  | rdcell bk off =>
    by_cases ho : off.toNat < 384
    · exact ⟨_, exec_accept hr (decide_eq_true ho) Nat.one_pos⟩
    · exact ⟨_, exec_rdcell_refused hr ho⟩

/-- A micro-step of a command in progress that goes through is one the spec has (R39, R123, R270). -/
theorem microStep_of_exec_next {i : Instr} {s t : State} {k : Nat} {written : List Nat}
    (hb : s.host = .busy i k written) (h : exec i s = .next t) : i.wellFormed = true ∧ k < microSteps i := by
  cases i with
  | fill v =>
    obtain ⟨a, ha, -⟩ := fillStep_next ((runCommand_busy hb).symm.trans h)
    exact ⟨rfl, fillCell_isSome.1 (Option.isSome_of_eq_some ha)⟩
  | setpx x y c =>
    obtain ⟨hk, -⟩ := setpxStep_next ((runCommand_busy hb).symm.trans h)
    exact ⟨rfl, hk⟩
  | encc r g bl =>
    have hstop : exec (.encc r g bl) s = .fault (.noMicroStep k) :=
      runCommand_busy (acc := enccAccept r g bl) (mic := fun k _ _ => .fault (.noMicroStep k)) hb
    simp [hstop] at h
  | rdcell bk off =>
    obtain ⟨rfl, ho, -⟩ := rdcellStep_next ((runCommand_busy hb).symm.trans h)
    exact ⟨decide_eq_true ho, Nat.one_pos⟩

/-- A port busy with the command answers it exactly while the command is well-formed and has a micro-step left. -/
theorem exists_exec_of_busy_iff {i : Instr} {s : State} {k : Nat} {written : List Nat}
    (hb : s.host = .busy i k written) : (∃ t, exec i s = .next t) ↔ i.wellFormed = true ∧ k < microSteps i := by
  refine ⟨fun ⟨t, h⟩ => microStep_of_exec_next hb h, fun ⟨hwf, hk⟩ => ?_⟩
  obtain ⟨t, -, ht, -⟩ := exec_busy hb hwf hk
  exact ⟨t, ht⟩

end Sys2Proof.Machine

/-! ### The obligations -/

namespace Sys2Proof

open Machine

/-- Settles O13: a ready port answers every command, a port busy with another lets it wait, and a port busy with this one
answers it exactly while it is well-formed and has a micro-step left. -/
theorem commandStopsExactlyOnProgressTheSpecLacks : Obligations.CommandStopsExactlyOnProgressTheSpecLacks := by
  intro i s
  rw [← not_exists]
  cases hport : s.host with
  | ready => simp [exists_exec_of_ready hport]
  | busy j k written =>
    by_cases hji : j = i
    · subst hji
      rw [exists_exec_of_busy_iff hport]
      simp [imp_iff_not_or, or_comm]
    · simp [exec_waits hport hji, hji]

/-- Settles O4: a word that decodes is the encoder's word of its command, which matches the command's row. -/
theorem decodedWordMatchesItsTableRow : Obligations.DecodedWordMatchesItsTableRow := by
  intro w i h
  obtain ⟨-, rfl⟩ := encodeOfDecodeIsTheWord w i h
  exact encode_matches_tableRow i

/-- Settles O19: the word has RDCELL's format with the offset out of range, and the refusal finds the port ready already. -/
theorem rdcellOfNoCellIsRefused : Obligations.RdcellOfNoCellIsRefused := by
  intro bk off s hoff hr
  have ho : ¬ off.toNat < 384 := Nat.not_lt.2 hoff
  refine ⟨decode_of_offsetRange (encode_hasFormat _) ho, (exec_rdcell_refused hr ho).trans ?_⟩
  exact congrArg Host.Outcome.next (State.setHost_self (s := s.setRefused true) hr)

/-- Settles O12: by the law of the waiting word. -/
theorem otherCommandWaitsWhileBusy : Obligations.OtherCommandWaitsWhileBusy :=
  fun _ _ _ _ _ hb hne => exec_waits hb hne

/-- Settles O51: by the invariant at reset, from which the runs of O54 start. -/
theorem resetMeetsTheInvariant : Obligations.ResetMeetsTheInvariant := State.inv_reset

/-- Settles O5: the decoder evaluates on the eighteen words. -/
theorem decoderReadsTheSpecsWords : Obligations.DecoderReadsTheSpecsWords := by
  unfold Obligations.DecoderReadsTheSpecsWords
  decide

end Sys2Proof
